-- ==== Sys2Proof/Word.lean ====
section
/-! DEFINITION. The word types of the FMAC core: 32-bit words on the command, event and response ports
(spec 30_encoding.md R80) and bytes, the only data width of its memories (20_memory.md R62). -/

namespace Sys2Proof

/-- A 32-bit command word, event word or CSR word (R39, R80). Bit 0 is the least significant (R11). -/
abbrev Word := BitVec 32

/-- A byte of a memory, payload or frame (R62). -/
abbrev Byte := BitVec 8

end Sys2Proof
end

