-- ==== Sys2Proof/Syntax.lean ====
section
/-! DEFINITION. The operations of the core (spec 00_scope.md R2): 14 commands, 4 events and the timer tick,
one constructor of Instr for each row of spec/opcode_table.json, and the inputs a port can carry. -/

namespace Sys2Proof

/-- The two line codes (R3 a). -/
inductive LineCode where
  | identity
  | eightTenB
deriving DecidableEq, Repr

/-- The operations, their operands as R81, R86 and R164 name them. Every field is an unsigned integer taken
directly from its bits (R82). -/
inductive Instr where
  /-- `NOP`, R221. -/
  | nop
  /-- `CFG i, n, plen, codec`, R111. -/
  | cfg (i n plen : BitVec 8) (codec : LineCode)
  /-- `STAGE_WR off, data`, R222. -/
  | stageWr (off : BitVec 8) (data : Byte)
  /-- `SEND`, R112. -/
  | send
  /-- `TXQ_RESERVE`, R187. -/
  | txqReserve
  /-- `TXQ_WR off, data`, R188. -/
  | txqWr (off : BitVec 8) (data : Byte)
  /-- `TXQ_COMMIT`, R189. -/
  | txqCommit
  /-- `TXQ_ABANDON`, R190. -/
  | txqAbandon
  /-- `TXQ_COUNT`, R191. -/
  | txqCount
  /-- `RXQ_POP`, R192. -/
  | rxqPop
  /-- `RXQ_RD off`, R193. -/
  | rxqRd (off : BitVec 8)
  /-- `RXQ_COUNT`, R196. -/
  | rxqCount
  /-- `RDCSR addr`, R223. -/
  | rdcsr (addr : BitVec 8)
  /-- `CLRCNT`, R224. -/
  | clrcnt
  /-- `EV_RX_EOM LEN, rx_bits`, R164; `rxBits` has exactly `len` bits, first received first (R80). -/
  | evRxEom (len : BitVec 16) (rxBits : List Bool)
  /-- `EV_TX_EMPTY`, R113. -/
  | evTxEmpty
  /-- `EV_TX_READY`, R114. -/
  | evTxReady
  /-- `EV_TX_ERROR`, R115. -/
  | evTxError
  /-- The timer tick, R104. -/
  | tick
deriving DecidableEq, Repr

/-- The assigned opcodes 0..13 of the command port (R81). -/
inductive Opcode where
  | nop | cfg | stageWr | send | txqReserve | txqWr | txqCommit | txqAbandon | txqCount
  | rxqPop | rxqRd | rxqCount | rdcsr | clrcnt
deriving DecidableEq, Repr

/-- What one input port carries in a cycle (R80). -/
inductive PortInput where
  /-- `cmd_valid = 1` with this `cmd_word`. -/
  | command (w : Word)
  /-- `ev_word` with the operand `rx_bits`. -/
  | event (w : Word) (rxBits : List Bool)
  /-- `tick = 1`. -/
  | tick
deriving DecidableEq, Repr

end Sys2Proof
end

