-- ==== Sys2Proof/WellFormed.lean ====
section
/-! DEFINITION. What the ports guarantee of an operation's operands beyond their types. A command's field
values are all legal encodings, checked when the command executes (spec 30_encoding.md R83); the operand of
EV_RX_EOM has exactly LEN bits (R80). -/

namespace Sys2Proof

/-- `rx_bits` is "a bit string of exactly `LEN` bits" (R80). -/
def rxOperandOk (len : BitVec 16) (rxBits : List Bool) : Bool :=
  rxBits.length == len.toNat

/-- The operands are ones a port can carry. -/
def wellFormed : Instr → Bool
  | .evRxEom len rxBits => rxOperandOk len rxBits
  | .nop | .cfg .. | .stageWr .. | .send | .txqReserve | .txqWr .. | .txqCommit | .txqAbandon
  | .txqCount | .rxqPop | .rxqRd .. | .rxqCount | .rdcsr .. | .clrcnt
  | .evTxEmpty | .evTxReady | .evTxError | .tick => true

end Sys2Proof
end

