-- ==== Sys2Proof/Decode.lean ====
section
/-! DEFINITION. Decoding of command and event words (spec 30_encoding.md R81 to R87), total and rejecting by
name, and the encoder written from the same tables. -/

namespace Sys2Proof

/-- Why a port's input is no operation. -/
inductive Reject where
  /-- Opcode 14..31 (R84). -/
  | reservedOpcode (op : BitVec 5)
  /-- An assigned opcode with a nonzero reserved bit (R84). -/
  | reservedBits (op : BitVec 5)
  /-- `ev_word` with code 0: no event (R86). -/
  | noEvent
  /-- Event code 1 or 6..15 (R87). -/
  | reservedEvent (code : BitVec 4)
  /-- `rx_bits` without exactly `LEN` bits, which no Radio presents (R80). -/
  | operandLength
deriving DecidableEq, Repr

/-! ## The opcode map (R81) -/

/-- The opcode's number (R81). -/
def opcodeCode : Opcode → BitVec 5
  | .nop => 0
  | .cfg => 1
  | .stageWr => 2
  | .send => 3
  | .txqReserve => 4
  | .txqWr => 5
  | .txqCommit => 6
  | .txqAbandon => 7
  | .txqCount => 8
  | .rxqPop => 9
  | .rxqRd => 10
  | .rxqCount => 11
  | .rdcsr => 12
  | .clrcnt => 13

/-- The opcode with a given number; 14..31 are reserved (R81, R84). -/
def opcodeOf (c : BitVec 5) : Option Opcode :=
  match c.toNat with
  | 0 => some .nop
  | 1 => some .cfg
  | 2 => some .stageWr
  | 3 => some .send
  | 4 => some .txqReserve
  | 5 => some .txqWr
  | 6 => some .txqCommit
  | 7 => some .txqAbandon
  | 8 => some .txqCount
  | 9 => some .rxqPop
  | 10 => some .rxqRd
  | 11 => some .rxqCount
  | 12 => some .rdcsr
  | 13 => some .clrcnt
  | _ => none

/-- The mask of the opcode map: the opcode and every reserved bit of the format (R81). -/
def opcodeMask : Opcode → Word
  | .cfg => 0xFE000000
  | .stageWr | .txqWr => 0xFFFF0000
  | .rxqRd => 0xFFFF00FF
  | .rdcsr => 0xFFFFFF00
  | .nop | .send | .txqReserve | .txqCommit | .txqAbandon | .txqCount | .rxqPop | .rxqCount
  | .clrcnt => 0xFFFFFFFF

/-- The match of the opcode map: the opcode shifted left by 27 (R81). -/
def opcodeMatch (op : Opcode) : Word :=
  (opcodeCode op).setWidth 32 <<< 27

/-! ## Fields -/

/-- `w[31:27]` (R81). -/
def opField (w : Word) : BitVec 5 := w.extractLsb' 27 5

/-- `w[15:8]`: `OFF` of formats B and O (R81). -/
def offField (w : Word) : BitVec 8 := w.extractLsb' 8 8

/-- `w[7:0]`: `DATA` of format B, `ADDR` of format A (R81). -/
def lowField (w : Word) : BitVec 8 := w.extractLsb' 0 8

/-- `ev_word[31:28]` (R86). -/
def evField (w : Word) : BitVec 4 := w.extractLsb' 28 4

/-- `ev_word[15:0]` (R86). -/
def lenField (w : Word) : BitVec 16 := w.extractLsb' 0 16

/-- The line code a `CODEC` bit selects: 0 is `IDENTITY`, 1 is `8B10B` (R81). -/
def codecOfBit (b : Bool) : LineCode := if b then .eightTenB else .identity

/-- The `CODEC` bit of a line code (R81). -/
def codecBit : LineCode → BitVec 1
  | .identity => 0
  | .eightTenB => 1

/-! ## Decoding -/

/-- `w` is a legal command word (R84). -/
def legalCommand (w : Word) : Bool :=
  match opcodeOf (opField w) with
  | none => false
  | some op => w &&& opcodeMask op == opcodeMatch op

/-- The command an opcode's word stands for, its fields cut out (R81, R82). -/
def commandOf (op : Opcode) (w : Word) : Instr :=
  match op with
  | .nop => .nop
  | .cfg => .cfg (lowField w) (w.extractLsb' 8 8) (w.extractLsb' 16 8) (codecOfBit (w.getLsbD 24))
  | .stageWr => .stageWr (offField w) (lowField w)
  | .send => .send
  | .txqReserve => .txqReserve
  | .txqWr => .txqWr (offField w) (lowField w)
  | .txqCommit => .txqCommit
  | .txqAbandon => .txqAbandon
  | .txqCount => .txqCount
  | .rxqPop => .rxqPop
  | .rxqRd => .rxqRd (offField w)
  | .rxqCount => .rxqCount
  | .rdcsr => .rdcsr (lowField w)
  | .clrcnt => .clrcnt

/-- The command port's decoder (R84). -/
def decodeCommand (w : Word) : Except Reject Instr :=
  match opcodeOf (opField w) with
  | none => .error (.reservedOpcode (opField w))
  | some op =>
    if w &&& opcodeMask op == opcodeMatch op then .ok (commandOf op w)
    else .error (.reservedBits (opField w))

/-- The event port's decoder (R86, R87). Bits [27:16] are never read, and `LEN` only for `EV_RX_EOM`. -/
def decodeEvent (w : Word) (rxBits : List Bool) : Except Reject Instr :=
  match (evField w).toNat with
  | 0 => .error .noEvent
  | 2 =>
    if rxOperandOk (lenField w) rxBits then .ok (.evRxEom (lenField w) rxBits)
    else .error .operandLength
  | 3 => .ok .evTxEmpty
  | 4 => .ok .evTxReady
  | 5 => .ok .evTxError
  | _ => .error (.reservedEvent (evField w))

/-- The operation a port's input asks for. -/
def decode : PortInput → Except Reject Instr
  | .command w => decodeCommand w
  | .event w rxBits => decodeEvent w rxBits
  | .tick => .ok .tick

/-! ## Encoding (R81, R86) -/

/-- Format Z. -/
def formatZ (op : Opcode) : Word := opcodeCode op ++ (0 : BitVec 27)

/-- Format C. -/
def formatC (op : Opcode) (codec : BitVec 1) (plen n i : BitVec 8) : Word :=
  opcodeCode op ++ (0 : BitVec 2) ++ codec ++ plen ++ n ++ i

/-- Format B. -/
def formatB (op : Opcode) (off data : BitVec 8) : Word :=
  opcodeCode op ++ (0 : BitVec 11) ++ off ++ data

/-- Format O. -/
def formatO (op : Opcode) (off : BitVec 8) : Word :=
  opcodeCode op ++ (0 : BitVec 11) ++ off ++ (0 : BitVec 8)

/-- Format A. -/
def formatA (op : Opcode) (addr : BitVec 8) : Word :=
  opcodeCode op ++ (0 : BitVec 19) ++ addr

/-- An event word with its ignored bits zero (R86). -/
def eventWord (code : BitVec 4) (len : BitVec 16) : Word :=
  code ++ (0 : BitVec 12) ++ len

/-- The port input that asks for an operation. -/
def encode : Instr → PortInput
  | .nop => .command (formatZ .nop)
  | .cfg i n plen codec => .command (formatC .cfg (codecBit codec) plen n i)
  | .stageWr off data => .command (formatB .stageWr off data)
  | .send => .command (formatZ .send)
  | .txqReserve => .command (formatZ .txqReserve)
  | .txqWr off data => .command (formatB .txqWr off data)
  | .txqCommit => .command (formatZ .txqCommit)
  | .txqAbandon => .command (formatZ .txqAbandon)
  | .txqCount => .command (formatZ .txqCount)
  | .rxqPop => .command (formatZ .rxqPop)
  | .rxqRd off => .command (formatO .rxqRd off)
  | .rxqCount => .command (formatZ .rxqCount)
  | .rdcsr addr => .command (formatA .rdcsr addr)
  | .clrcnt => .command (formatZ .clrcnt)
  | .evRxEom len rxBits => .event (eventWord 2 len) rxBits
  | .evTxEmpty => .event (eventWord 3 0) []
  | .evTxReady => .event (eventWord 4 0) []
  | .evTxError => .event (eventWord 5 0) []
  | .tick => .tick

/-! ## The opcode table's own numbering

One 32-bit word can be a legal command and an assigned event at once (`0x20000000` is `TXQ_RESERVE` and
`EV_RX_EOM 0`): the two ports are separate (R80). The table's rows do not say the port to these two functions, so
the command port is read first. DESIGN CHOICE, log 8; it touches nothing but the host's own questions. -/

/-- The port input a table word stands for: less than 32 bits is the tick pin. `rx_bits` is all zeros, the operand
words that the table gives no bits. -/
def tableInput (nbits w : Nat) : PortInput :=
  let word := BitVec.ofNat 32 w
  if nbits < 32 then (if w = 1 then .tick else .event 0 [])
  else if legalCommand word then .command word
  else if 2 ≤ (evField word).toNat ∧ (evField word).toNat ≤ 5 then
    .event word (List.replicate (lenField word).toNat false)
  else .command word

/-- The instruction the decoder reads from a table word. -/
def decodeTableWord (nbits w : Nat) : Option Instr :=
  if w < 2 ^ 32 then (decode (tableInput nbits w)).toOption else none

end Sys2Proof
end

