-- ==== Sys2Proof/Config.lean ====
section
/-! DEFINITION. What a build of the core fixes (spec 00_scope.md R8, R9), the test build TP1 (R10), and the
free values: the draws that no rule constrains (R15, 10_state.md R58). -/

namespace Sys2Proof.Config

/-- `CDC_MODE`, the ring clock-domain mode (R3 c): `SYNC` is the default, `GRAY` an optional build. -/
inductive CdcMode where
  | sync
  | gray
deriving DecidableEq, Repr

/-- The build parameters of R8. Each is as wide as the CSR field that shows it (R42, R43), so the upper
bounds of R9 hold by the type. -/
structure Build where
  /-- `PREAMBLE`: `P0` in [23:16], `P1` in [15:8], `P2` in [7:0] (R43). -/
  preamble : BitVec 24
  /-- `PAYLOAD_MAX`, 1..255. -/
  payloadMax : BitVec 8
  /-- `RING_BYTES`, 2..65535. -/
  ringBytes : BitVec 16
  /-- `TICKS_PER_BIT`, 1..2^32-1. -/
  ticksPerBit : BitVec 32
  /-- `TURNAROUND_TICKS`, 0..2^32-1. -/
  turnaroundTicks : BitVec 32
  /-- `CDC_MODE`. -/
  cdcMode : CdcMode
  /-- `SYNC_STAGES`, 2..15 in `GRAY` mode, unused in `SYNC`. -/
  syncStages : BitVec 4
deriving DecidableEq, Repr

/-- The constraints R8 and R9 put on a build. -/
abbrev Build.Valid (b : Build) : Prop :=
  1 ≤ b.payloadMax.toNat ∧ 2 ≤ b.ringBytes.toNat ∧ 1 ≤ b.ticksPerBit.toNat ∧
    (b.cdcMode = .gray → 2 ≤ b.syncStages.toNat)

/-- The test parameter set TP1 (R10). DESIGN CHOICE, log 1: State.reset takes it, and the spec says it is no
claim about any shipped build; unsafe for a statement about State.reset itself. `SYNC_STAGES` is unused in
`SYNC` (R8); 2 stands there. -/
def tp1 : Build where
  preamble := 0xAAAAAA
  payloadMax := 32
  ringBytes := 16
  ticksPerBit := 10
  turnaroundTicks := 20
  cdcMode := .sync
  syncStages := 2

/-- TP1 in a `GRAY` build with two synchroniser stages, the build of the vectors V-GRAY-1 to V-GRAY-4. -/
def tp1Gray : Build := { tp1 with cdcMode := .gray }

/-- What the `k`-th draw gives where a RAM byte not written since reset is read (R15 c, R58). A FREE VALUE,
log 5: no proof can see it; safe. -/
opaque ramDraw : Nat → Byte

/-- What the `k`-th draw gives for a received bit that the event input leaves open (R15 b). A FREE VALUE,
log 6: no proof can see it; safe. -/
opaque rxDraw : Nat → Bool

end Sys2Proof.Config
end

