-- ==== Sys2Proof/Machine/State.lean ====
section
/-! DEFINITION. Every piece of state of the core (spec 10_state.md R22 to R37), as plain data, and its reset
values (R56). The last four fields of State are the model's own: what the four agents present and what the
transceiver is asked (00_scope.md R6, R14, R15). -/

namespace Sys2Proof.Machine

open Sys2Proof.Config (Build)

/-- A memory: the bytes written since reset, addresses strictly rising. A byte that is not listed holds no known
value; reading it is a draw (R58). -/
abbrev Memory := List Host.Cell

/-- The core's four memories (20_memory.md R60). -/
inductive MemKind where
  | frameBuf
  | stage
  | txq
  | rxq
deriving DecidableEq, Repr

/-- `STATE` (R24); value 3 is never stored. -/
inductive SchedState where
  | idle
  | sending
  | waitGuard
deriving DecidableEq, Repr

/-- The configuration registers of R22 and the derived ones of R23. -/
structure CfgRegs where
  configured : Bool
  i : BitVec 8
  n : BitVec 8
  plen : BitVec 8
  codec : LineCode
  symbits : BitVec 4
  txlen : BitVec 16
  rxlen : BitVec 16
  frameBits : BitVec 16
  crcL : BitVec 16
  delta : BitVec 32
  kI : BitVec 8
  kMax : BitVec 8
  guard : BitVec 32
deriving DecidableEq, Repr

/-- `STATE`, `REP` and `VALID` (R24 to R26). -/
structure SchedRegs where
  state : SchedState
  rep : BitVec 4
  valid : Bool
deriving DecidableEq, Repr

/-- `TMR_ARMED` and `TMR_COUNT` (R29). -/
structure TimerRegs where
  armed : Bool
  count : BitVec 32
deriving DecidableEq, Repr

/-- `RADIO_TX` and `RX_RESTORE` (R30). -/
structure RadioRegs where
  radioTx : Bool
  rxRestore : Bool
deriving DecidableEq, Repr

/-- One ring's registers and backing region (R31), with the synchroniser chains of a `GRAY` build (R34); in a
`SYNC` build there are no chains and both lists are empty. -/
structure Ring where
  mem : Memory
  /-- `q.E`, the entry size. -/
  e : BitVec 8
  /-- `q.N`, the slot count. -/
  n : BitVec 16
  /-- `q.W`, the write cursor. -/
  w : BitVec 16
  /-- `q.R`, the read cursor. -/
  r : BitVec 16
  /-- `q.RSYNC[0..]`, Gray-coded. -/
  rsync : List (BitVec 16)
  /-- `q.WSYNC[0..]`, Gray-coded. -/
  wsync : List (BitVec 16)
deriving DecidableEq, Repr

/-- `FAULTED`, `FAULT_CAUSE` and `FAULT_OP` (R35). -/
structure FaultRegs where
  faulted : Bool
  cause : BitVec 8
  op : BitVec 5
deriving DecidableEq, Repr

/-- The 13 diagnostic counters (R36). -/
structure Counters where
  txSent : BitVec 32
  txKeyupFail : BitVec 32
  txError : BitVec 32
  rxModeFail : BitVec 32
  txqFull : BitVec 32
  txqEmptyPull : BitVec 32
  rxqEmpty : BitVec 32
  rxOk : BitVec 32
  rxCorrected : BitVec 32
  rxLinecodeFail : BitVec 32
  rxChecksumFail : BitVec 32
  rxEccFail : BitVec 32
  rxDropFull : BitVec 32
deriving DecidableEq, Repr

/-- The names of the counters (R36). -/
inductive Counter where
  | txSent | txKeyupFail | txError | rxModeFail | txqFull | txqEmptyPull | rxqEmpty
  | rxOk | rxCorrected | rxLinecodeFail | rxChecksumFail | rxEccFail | rxDropFull
deriving DecidableEq, Repr

/-- `RSP_FAIL` and `RSP_DATA` (R37). -/
structure Response where
  fail : Bool
  data : Word
deriving DecidableEq, Repr

/-- The two modes `SetMode` asks for (R14). -/
inductive RadioMode where
  | rx
  | tx
deriving DecidableEq, Repr

/-- A transaction with the transceiver (R14, R37). -/
inductive RadioRequest where
  /-- `SetMode(m)` and the Radio's answer, `true` for `ok`. -/
  | setMode (m : RadioMode) (ok : Bool)
  /-- `WriteFrame`: the bits handed over, first sent first. -/
  | writeFrame (bits : List Bool)
deriving DecidableEq, Repr

/-- The Radio's answers within one atomic step, `true` for `ok` (R15 a). One step asks for each mode at most once
(log 4). -/
structure Answers where
  rx : Bool
  tx : Bool
deriving DecidableEq, Repr

/-- What the four agents present in one cycle (R6, R80). -/
structure CycleIn where
  /-- Reset: `rst`. -/
  rst : Bool
  /-- Radio: `ev_word`; 0 is no event. -/
  evWord : Word
  /-- Radio: `rx_bits`, read for `EV_RX_EOM`; bits up to `LEN` that it does not give are draws (log 6). -/
  rxBits : List Bool
  /-- Clock: `tick`. -/
  tick : Bool
  /-- Host: `cmd_word` where `cmd_valid = 1`. -/
  cmd : Option Word
  /-- The answers to the event step's `SetMode` requests. -/
  evAnswers : Answers
  /-- The answers to the tick step's requests. -/
  tickAnswers : Answers
  /-- The answers to the command step's requests. -/
  cmdAnswers : Answers
deriving DecidableEq, Repr

/-- The state of the core and of its ports. -/
structure State where
  /-- The build's constants; no step changes them (R55, log 1). -/
  build : Build
  cfg : CfgRegs
  sched : SchedRegs
  timer : TimerRegs
  radio : RadioRegs
  /-- `FRAME_BUF` (R27). -/
  frameBuf : Memory
  /-- `STAGE` (R28). -/
  stage : Memory
  txq : Ring
  /-- `TXQ.RESERVED` (R32). -/
  txqReserved : Bool
  rxq : Ring
  /-- `RXQ.OWNED` (R33). -/
  rxqOwned : Bool
  /-- `RXQ.OSLOT` (R33). -/
  rxqOslot : BitVec 16
  fault : FaultRegs
  cnt : Counters
  rsp : Response
  /-- The `IRQ` pin (R37). -/
  irq : Bool
  /-- The model's own: the transceiver requests of the present cycle, in order (log 7). -/
  requests : List RadioRequest
  /-- The model's own: the Radio's answers in the present step (log 4). -/
  answers : Answers
  /-- The model's own: what the agents present in the cycles to come; a cycle past the end of the list is one in
  which nothing is presented (log 2). -/
  inputs : List CycleIn
  /-- The model's own: how many draws have been taken (log 5). -/
  draws : Nat
deriving DecidableEq, Repr

/-- Why the model stops. The core itself never does: its Fault is a state (60_exceptions.md R241). -/
inductive Fault where
  /-- Raised by a checked access of Machine/Ops.lean whose address lies outside the named memory: no such byte
  exists (20_memory.md R60, R66). Safe; no state with the invariant of Safety.lean raises it (log 9). -/
  | noSuchByte (k : MemKind)
deriving DecidableEq, Repr

/-- Why the model gives an operation no meaning. -/
inductive Refusal where
  /-- Raised only by an arm of exec whose instruction has no meaning yet; safe. Every instruction of this model
  has one. -/
  | notModelled (mnemonic : String)
deriving DecidableEq, Repr

/-! ## Reset values (R56) -/

/-- The configuration registers at reset. -/
def CfgRegs.reset : CfgRegs where
  configured := false
  i := 0
  n := 0
  plen := 0
  codec := .identity
  symbits := 0
  txlen := 0
  rxlen := 0
  frameBits := 0
  crcL := 0
  delta := 0
  kI := 0
  kMax := 0
  guard := 0

/-- All counters zero: at reset (R56) and after `CLRCNT` (R224). -/
def Counters.zero : Counters where
  txSent := 0
  txKeyupFail := 0
  txError := 0
  rxModeFail := 0
  txqFull := 0
  txqEmptyPull := 0
  rxqEmpty := 0
  rxOk := 0
  rxCorrected := 0
  rxLinecodeFail := 0
  rxChecksumFail := 0
  rxEccFail := 0
  rxDropFull := 0

/-- A synchroniser chain with every register 0: `SYNC_STAGES` of them in a `GRAY` build, none in `SYNC` (R34). -/
def clearedChain (b : Build) : List (BitVec 16) :=
  match b.cdcMode with
  | .sync => []
  | .gray => List.replicate b.syncStages.toNat 0

/-- A ring at reset; its region's contents are unspecified (R56, R58). -/
def Ring.reset (b : Build) : Ring where
  mem := []
  e := 0
  n := 0
  w := 0
  r := 0
  rsync := clearedChain b
  wsync := clearedChain b

/-- The core of build `b` right after reset (R56). -/
def State.resetOf (b : Build) : State where
  build := b
  cfg := .reset
  sched := ⟨.idle, 0, false⟩
  timer := ⟨false, 0⟩
  radio := ⟨false, false⟩
  frameBuf := []
  stage := []
  txq := .reset b
  txqReserved := false
  rxq := .reset b
  rxqOwned := false
  rxqOslot := 0
  fault := ⟨false, 0, 0⟩
  cnt := .zero
  rsp := ⟨false, 0⟩
  irq := false
  requests := []
  answers := ⟨true, true⟩
  inputs := []
  draws := 0

/-- The core right after reset, in the test build TP1 (R10; DESIGN CHOICE, log 1). -/
def State.reset : State := .resetOf Config.tp1

end Sys2Proof.Machine
end

