-- ==== Sys2Proof/Machine/Ops.lean ====
section
/-! DEFINITION. The named operations over registers and memories: one writer for each piece of state, memory
reads and writes (spec 20_memory.md R60 to R66), the timer primitives (R103), the transceiver requests (R14,
R116), the response (R220), entering the fault state (R241) and the command and event prologues (R85, R88). -/

namespace Sys2Proof.Machine

open Sys2Proof.Config (Build)

/-- What an operation of the core answers. -/
abbrev Result (α : Type) := Host.Outcome α Fault Refusal

/-- Do one thing and then another, stopping where the first stops. -/
def andThen {α β : Type} (o : Result α) (f : α → Result β) : Result β :=
  match o with
  | .next a => f a
  | .fault r => .fault r
  | .refused r => .refused r

/-! ## Writers -/

def setCfg (c : CfgRegs) (s : State) : State := { s with cfg := c }
def setSched (c : SchedRegs) (s : State) : State := { s with sched := c }
def setTimer (t : TimerRegs) (s : State) : State := { s with timer := t }
def setRadio (r : RadioRegs) (s : State) : State := { s with radio := r }
def setFrameBuf (m : Memory) (s : State) : State := { s with frameBuf := m }
def setStage (m : Memory) (s : State) : State := { s with stage := m }
def setTxq (q : Ring) (s : State) : State := { s with txq := q }
def setTxqReserved (b : Bool) (s : State) : State := { s with txqReserved := b }
def setRxq (q : Ring) (s : State) : State := { s with rxq := q }
def setRxqOwned (b : Bool) (s : State) : State := { s with rxqOwned := b }
def setRxqOslot (x : BitVec 16) (s : State) : State := { s with rxqOslot := x }
def setFault (f : FaultRegs) (s : State) : State := { s with fault := f }
def setCnt (c : Counters) (s : State) : State := { s with cnt := c }
def setRsp (r : Response) (s : State) : State := { s with rsp := r }
def setIrq (b : Bool) (s : State) : State := { s with irq := b }
def setRequests (l : List RadioRequest) (s : State) : State := { s with requests := l }
def setAnswers (a : Answers) (s : State) : State := { s with answers := a }
def setInputs (l : List CycleIn) (s : State) : State := { s with inputs := l }
def setDraws (k : Nat) (s : State) : State := { s with draws := k }

/-! ## Memories -/

/-- The byte at an address, if one was written since reset. -/
def Memory.read? : Memory → Nat → Option Byte
  | [], _ => none
  | (a, v) :: m, x => if a = x then some v else Memory.read? m x

/-- One byte written, the addresses kept strictly rising. -/
def Memory.write : Memory → Nat → Byte → Memory
  | [], x, v => [(x, v)]
  | (a, u) :: m, x, v =>
    if x < a then (x, v) :: (a, u) :: m
    else if x = a then (x, v) :: m
    else (a, u) :: Memory.write m x v

/-- Bytes written from an address on, the first at the lowest. -/
def Memory.writeBytes : Memory → Nat → List Byte → Memory
  | m, _, [] => m
  | m, x, v :: vs => Memory.writeBytes (Memory.write m x v) (x + 1) vs

/-- The bytes from an address on, and the number of draws taken in all: a byte not written since reset is a draw,
each read a new one (10_state.md R58). -/
def Memory.readBytes (m : Memory) : Nat → Nat → Nat → List Byte × Nat
  | _, 0, k => ([], k)
  | x, n + 1, k =>
    match Memory.read? m x with
    | some v => let (vs, k') := Memory.readBytes m (x + 1) n k; (v :: vs, k')
    | none => let (vs, k') := Memory.readBytes m (x + 1) n (k + 1); (Config.ramDraw k :: vs, k')

/-- The canonical form: addresses strictly rising. An unlisted address reads as no value, so no entry repeats what
an unlisted one reads as. -/
def Memory.wf : Memory → Bool
  | [] => true
  | [_] => true
  | (a, _) :: (b, v) :: m => decide (a < b) && Memory.wf ((b, v) :: m)

/-- Every listed address is below `size`. -/
def Memory.below (size : Nat) (m : Memory) : Bool := m.all fun c => decide (c.1 < size)

/-! ## Lengths that depend on the line code (41_codec.md R142 to R145) -/

/-- `symbits(codec)` (R142). -/
def symbitsOf : LineCode → Nat
  | .identity => 8
  | .eightTenB => 10

/-- `framebits(codec, P)` (R145). -/
def framebitsOf (codec : LineCode) (plen : Nat) : Nat := 24 + symbitsOf codec * (plen + 4) + 8

/-- `txlen(codec, P)` (R143): the frame's bits, rounded up to whole bytes. -/
def txlenOf (codec : LineCode) (plen : Nat) : Nat := (framebitsOf codec plen + 7) / 8

/-- `rxlen(codec, P)` (R144). -/
def rxlenOf (codec : LineCode) (plen : Nat) : Nat := symbitsOf codec * (plen + 4)

/-- `FRAME_BUF_BYTES` (R27, R143). -/
def frameBufBytes (b : Build) : Nat := txlenOf .eightTenB b.payloadMax.toNat

/-! ## Checked access (R60, R62, R66) -/

/-- The memory of a kind. -/
def memOf (k : MemKind) (s : State) : Memory :=
  match k with
  | .frameBuf => s.frameBuf
  | .stage => s.stage
  | .txq => s.txq.mem
  | .rxq => s.rxq.mem

/-- A memory replaced. -/
def setMem (k : MemKind) (m : Memory) (s : State) : State :=
  match k with
  | .frameBuf => setFrameBuf m s
  | .stage => setStage m s
  | .txq => setTxq { s.txq with mem := m } s
  | .rxq => setRxq { s.rxq with mem := m } s

/-- A memory's size in bytes (R60). -/
def memSize (b : Build) (k : MemKind) : Nat :=
  match k with
  | .frameBuf => frameBufBytes b
  | .stage => b.payloadMax.toNat
  | .txq | .rxq => b.ringBytes.toNat

/-- `MemRead` of `n` bytes from `base` on (R14, R62); the model stops where one of them does not exist (log 9). -/
def memRead (k : MemKind) (base n : Nat) (s : State) : Result (List Byte × State) :=
  if base + n ≤ memSize s.build k then
    let r := (memOf k s).readBytes base n s.draws
    .next (r.1, setDraws r.2 s)
  else .fault (.noSuchByte k)

/-- `MemWrite` of bytes from `base` on (R14, R62); the model stops where one of them does not exist (log 9). -/
def memWrite (k : MemKind) (base : Nat) (bs : List Byte) (s : State) : Result State :=
  if base + bs.length ≤ memSize s.build k then .next (setMem k ((memOf k s).writeBytes base bs) s)
  else .fault (.noSuchByte k)

/-! ## Counters (R14, R36) -/

/-- A counter's value. -/
def Counters.get (c : Counters) : Counter → BitVec 32
  | .txSent => c.txSent
  | .txKeyupFail => c.txKeyupFail
  | .txError => c.txError
  | .rxModeFail => c.rxModeFail
  | .txqFull => c.txqFull
  | .txqEmptyPull => c.txqEmptyPull
  | .rxqEmpty => c.rxqEmpty
  | .rxOk => c.rxOk
  | .rxCorrected => c.rxCorrected
  | .rxLinecodeFail => c.rxLinecodeFail
  | .rxChecksumFail => c.rxChecksumFail
  | .rxEccFail => c.rxEccFail
  | .rxDropFull => c.rxDropFull

/-- `Count(C)`: one counter up by one, modulo 2^32. -/
def Counters.bump (c : Counters) : Counter → Counters
  | .txSent => { c with txSent := c.txSent + 1 }
  | .txKeyupFail => { c with txKeyupFail := c.txKeyupFail + 1 }
  | .txError => { c with txError := c.txError + 1 }
  | .rxModeFail => { c with rxModeFail := c.rxModeFail + 1 }
  | .txqFull => { c with txqFull := c.txqFull + 1 }
  | .txqEmptyPull => { c with txqEmptyPull := c.txqEmptyPull + 1 }
  | .rxqEmpty => { c with rxqEmpty := c.rxqEmpty + 1 }
  | .rxOk => { c with rxOk := c.rxOk + 1 }
  | .rxCorrected => { c with rxCorrected := c.rxCorrected + 1 }
  | .rxLinecodeFail => { c with rxLinecodeFail := c.rxLinecodeFail + 1 }
  | .rxChecksumFail => { c with rxChecksumFail := c.rxChecksumFail + 1 }
  | .rxEccFail => { c with rxEccFail := c.rxEccFail + 1 }
  | .rxDropFull => { c with rxDropFull := c.rxDropFull + 1 }

/-- `Count(C)` (R14). -/
def count (c : Counter) (s : State) : State := setCnt (s.cnt.bump c) s

/-! ## Timer (40_scheduler.md R103) -/

/-- `Arm(T)`. -/
def arm (t : Nat) (s : State) : State := setTimer ⟨true, BitVec.ofNat 32 t⟩ s

/-- `Stop()`. -/
def stopTimer (s : State) : State := setTimer ⟨false, 0⟩ s

/-! ## Response and faults -/

/-- `respond(fail, data)` (43_host.md R220). -/
def respond (fail : Bool) (data : Word) (s : State) : State := setRsp ⟨fail, data⟩ s

/-- The causes of a fault (60_exceptions.md R239). -/
inductive Cause where
  | cfgBadId | cfgBadCount | cfgBadLen | cfgRingTooSmall | cfgTimingOverflow | cfgBusy | notConfigured
  | txqDoubleReserve | txqNoReservation | offsetRange | rxqNotOwned | illegalCommand | illegalCsr
deriving DecidableEq, Repr

/-- A cause's code (R239). -/
def causeCode : Cause → BitVec 8
  | .cfgBadId => 0x01
  | .cfgBadCount => 0x02
  | .cfgBadLen => 0x03
  | .cfgRingTooSmall => 0x04
  | .cfgTimingOverflow => 0x05
  | .cfgBusy => 0x06
  | .notConfigured => 0x07
  | .txqDoubleReserve => 0x08
  | .txqNoReservation => 0x09
  | .offsetRange => 0x0A
  | .rxqNotOwned => 0x0B
  | .illegalCommand => 0x0C
  | .illegalCsr => 0x0D

/-- `raise Fault(c)` in the step of a command word with opcode field `op` (R241). Only reset undoes it (R243). -/
def raiseFault (c : Cause) (op : BitVec 5) (s : State) : State :=
  respond true 0 (stopTimer (setFault ⟨true, causeCode c, op⟩ s))

/-- The answer of the fault state to every word but a legal `NOP` or `RDCSR` (R242). -/
def refuseFaulted (s : State) : State := respond true 0 s

/-- The commands accepted while unconfigured (30_encoding.md R85 step 3). -/
def needsConfig : Opcode → Bool
  | .nop | .cfg | .rdcsr | .clrcnt => false
  | .stageWr | .send | .txqReserve | .txqWr | .txqCommit | .txqAbandon | .txqCount
  | .rxqPop | .rxqRd | .rxqCount => true

/-- The command prologue of a legal word (R85): the fault gate, answered by `faultedAnswer` (R242), then the
configuration check, then the command's own rule. -/
def command (op : Opcode) (faultedAnswer : State → State) (body : State → Result State) (s : State) :
    Result State :=
  if s.fault.faulted then .next (faultedAnswer s)
  else if needsConfig op && !s.cfg.configured then .next (raiseFault .notConfigured (opcodeCode op) s)
  else body s

/-- The step of an illegal command word (R84, R85, R242). -/
def illegalCommand (w : Word) (s : State) : State :=
  if s.fault.faulted then refuseFaulted s else raiseFault .illegalCommand (opField w) s

/-- The gate of events and ticks (R88). -/
def gated (body : State → Result State) (s : State) : Result State :=
  if !s.cfg.configured || s.fault.faulted then .next s else body s

/-! ## Transceiver requests -/

/-- A request recorded on the transceiver's port (R14, R37). -/
def request (r : RadioRequest) (s : State) : State := setRequests (s.requests ++ [r]) s

/-- `restore_rx()` (40_scheduler.md R116). -/
def restoreRx (s : State) : State :=
  let s := request (.setMode .rx s.answers.rx) s
  if s.answers.rx then setRadio ⟨false, false⟩ s
  else count .rxModeFail (setRadio { s.radio with rxRestore := true } s)

/-! ## Reset (70_reset_and_hazards.md R270) -/

/-- A cycle with `rst`: every element at its reset value and no request made; what the agents will present and the
draws taken are no state of the core and stay. -/
def resetCycle (s : State) : State :=
  setDraws s.draws (setInputs s.inputs (State.resetOf s.build))

end Sys2Proof.Machine
end

