-- ==== Sys2Proof/Machine/Flags.lean ====
section
/-! DEFINITION. The rings' geometry, the cursor views and the flags computed from them: counts, full, empty (spec
42_ring.md R180 to R186, R199 to R201), and the host interrupt function (60_exceptions.md R246). The core has no
arithmetic flags (10_state.md R38). -/

namespace Sys2Proof.Machine

open Sys2Proof.Config (Build)

/-! ## Gray code (R201) -/

/-- `bin_to_gray(v)`. -/
def binToGray (v : BitVec 16) : BitVec 16 := v ^^^ (v >>> 1)

/-- `gray_to_bin(g)`: bit `k` is the exclusive or of the bits of `g` from `k` up. -/
def grayToBin (g : BitVec 16) : BitVec 16 :=
  (List.range 16).foldl (fun acc k => acc ^^^ (g >>> k)) 0

/-- The last register of a synchroniser chain (R34). -/
def chainEnd (b : Build) (chain : List (BitVec 16)) : BitVec 16 := chain.getD (b.syncStages.toNat - 1) 0

/-! ## Geometry (R180, R182) -/

/-- `q.N` for an entry size: `floor(RING_BYTES / E)`, rounded down to a power of two in `GRAY` mode. -/
def slotsOf (b : Build) (e : Nat) : Nat :=
  match b.cdcMode with
  | .sync => b.ringBytes.toNat / e
  | .gray => 2 ^ Nat.log2 (b.ringBytes.toNat / e)

/-- The first byte of a slot (20_memory.md R66). -/
def slotBase (q : Ring) (slot : BitVec 16) : Nat := slot.toNat * q.e.toNat

/-- `(x + 1) mod q.N`, the cursor after `x`. -/
def nextSlot (q : Ring) (x : BitVec 16) : BitVec 16 := BitVec.ofNat 16 ((x.toNat + 1) % q.n.toNat)

/-- `capacity(q)` (R182). -/
def capacity (q : Ring) : Nat := q.n.toNat - 1

/-! ## Cursor views (R34, R199) -/

/-- `q.RV`, the producer side's view of the read cursor. -/
def readView (b : Build) (q : Ring) : BitVec 16 :=
  match b.cdcMode with
  | .sync => q.r
  | .gray => grayToBin (chainEnd b q.rsync)

/-- `q.WV`, the consumer side's view of the write cursor. -/
def writeView (b : Build) (q : Ring) : BitVec 16 :=
  match b.cdcMode with
  | .sync => q.w
  | .gray => grayToBin (chainEnd b q.wsync)

/-! ## Counts, full and empty (R181, R183, R185) -/

/-- `(x - y) mod n`, the non-negative remainder (R12). -/
def cursorDist (n x y : BitVec 16) : Nat := (((x.toNat : Int) - (y.toNat : Int)) % (n.toNat : Int)).toNat

/-- `count(q)`, of the cursors themselves. -/
def ringCount (q : Ring) : Nat := cursorDist q.n q.w q.r

/-- `count_p(q)`, the producer side's count. -/
def countP (b : Build) (q : Ring) : Nat := cursorDist q.n q.w (readView b q)

/-- `count_c(q)`, the consumer side's count. -/
def countC (b : Build) (q : Ring) : Nat := cursorDist q.n (writeView b q) q.r

/-- `full_p(q)`. -/
def fullP (b : Build) (q : Ring) : Bool := nextSlot q q.w == readView b q

/-- The consumer side sees the ring as empty. -/
def emptyC (b : Build) (q : Ring) : Bool := writeView b q == q.r

/-! ## Host interrupt (R246) -/

/-- `irq()`. -/
def irqOf (s : State) : Bool := s.fault.faulted || (s.cfg.configured && decide (0 < countC s.build s.rxq))

end Sys2Proof.Machine
end

