-- ==== Sys2Proof/Machine/Csr.lean ====
section
/-! DEFINITION. The control and status registers (spec 10_state.md R39 to R51): read-only 32-bit views. In a
concatenation the more significant field stands first (00_scope.md R11); a bit not listed reads 0 (R39). -/

namespace Sys2Proof.Machine

open Sys2Proof.Config (Build CdcMode)

/-- One bit of a word. -/
def flag (b : Bool) : BitVec 1 := BitVec.ofBool b

/-- `STATE`'s encoding (R24). -/
def stateCode : SchedState → BitVec 2
  | .idle => 0
  | .sending => 1
  | .waitGuard => 2

/-- `CDC_MODE` as `PARAM0` shows it (R42). -/
def cdcBit : CdcMode → BitVec 1
  | .sync => 0
  | .gray => 1

/-- `SYNC_STAGES` as `PARAM0` shows it: 0 in `SYNC` mode (R42). -/
def stagesShown (b : Build) : BitVec 4 :=
  match b.cdcMode with
  | .sync => 0
  | .gray => b.syncStages

/-- `PARAM0` (R42). -/
def param0 (b : Build) : Word :=
  (0 : BitVec 4) ++ stagesShown b ++ (0 : BitVec 7) ++ cdcBit b.cdcMode ++ (3 : BitVec 8) ++ b.payloadMax

/-- `CONFIG` (R44). -/
def configWord (c : CfgRegs) : Word :=
  flag c.configured ++ (0 : BitVec 6) ++ codecBit c.codec ++ c.plen ++ c.n ++ c.i

/-- `STATUS` (R45), with `irq()` of this moment (R246). -/
def statusWord (s : State) : Word :=
  flag s.fault.faulted ++ (0 : BitVec 17) ++ flag (irqOf s) ++ flag s.rxqOwned ++ flag s.txqReserved
    ++ flag s.timer.armed ++ flag s.radio.rxRestore ++ flag s.radio.radioTx ++ s.sched.rep
    ++ (0 : BitVec 1) ++ flag s.sched.valid ++ stateCode s.sched.state

/-- `FAULT` (R46). -/
def faultWord (f : FaultRegs) : Word := (0 : BitVec 19) ++ f.op ++ f.cause

/-- `TXQ_PTR` and `RXQ_PTR` (R49, R50). -/
def ptrWord (q : Ring) : Word := q.r ++ q.w

/-- `TXQ_INFO` and `RXQ_INFO` with the side's count; both fields read 0 while unconfigured (R49, R50). -/
def infoWord (configured : Bool) (q : Ring) (cnt : Nat) : Word :=
  if configured then BitVec.ofNat 16 (capacity q) ++ BitVec.ofNat 16 cnt else 0

/-- `RXQ_OSLOT` (R50). -/
def oslotWord (s : State) : Word := flag s.rxqOwned ++ (0 : BitVec 15) ++ s.rxqOslot

/-- `csr_value(ADDR)` for an assigned address (R40 to R51), `none` for a reserved one. DEDUCED, log 14: R53 counts 29
assigned addresses; the 32 of R40's table are taken here, whose last sentence lists the reserved ones. -/
def csrValue (addr : BitVec 8) (s : State) : Option Word :=
  match addr.toNat with
  | 0x00 => some 0x464D4143
  | 0x01 => some (param0 s.build)
  | 0x02 => some ((0 : BitVec 16) ++ s.build.ringBytes)
  | 0x03 => some s.build.ticksPerBit
  | 0x04 => some s.build.turnaroundTicks
  | 0x05 => some ((0 : BitVec 8) ++ s.build.preamble)
  | 0x08 => some (configWord s.cfg)
  | 0x09 => some (statusWord s)
  | 0x0A => some (faultWord s.fault)
  | 0x0B => some (s.cfg.rxlen ++ s.cfg.txlen)
  | 0x0C => some s.cfg.delta
  | 0x0D => some ((0 : BitVec 16) ++ s.cfg.kMax ++ s.cfg.kI)
  | 0x0E => some s.cfg.guard
  | 0x0F => some s.timer.count
  | 0x10 => some (ptrWord s.txq)
  | 0x11 => some (infoWord s.cfg.configured s.txq (countP s.build s.txq))
  | 0x12 => some (ptrWord s.rxq)
  | 0x13 => some (infoWord s.cfg.configured s.rxq (countC s.build s.rxq))
  | 0x14 => some (oslotWord s)
  | 0x18 => some s.cnt.txSent
  | 0x19 => some s.cnt.txKeyupFail
  | 0x1A => some s.cnt.txError
  | 0x1B => some s.cnt.rxModeFail
  | 0x1C => some s.cnt.txqFull
  | 0x1D => some s.cnt.txqEmptyPull
  | 0x1E => some s.cnt.rxqEmpty
  | 0x1F => some s.cnt.rxOk
  | 0x20 => some s.cnt.rxCorrected
  | 0x21 => some s.cnt.rxLinecodeFail
  | 0x22 => some s.cnt.rxChecksumFail
  | 0x23 => some s.cnt.rxEccFail
  | 0x24 => some s.cnt.rxDropFull
  | _ => none

end Sys2Proof.Machine
end

