-- ==== Sys2Proof/Machine/Operands.lean ====
section
/-! DEFINITION. The operand forms of the operations (spec 30_encoding.md R82): the staged payload, the bytes of a
ring slot at an offset, and the received bits of the event port (R80). -/

namespace Sys2Proof.Machine

/-- `STAGE[0 .. CFG_PLEN-1]`, the payload of `SEND` (40_scheduler.md R112). -/
def stagePayload (s : State) : Result (List Byte × State) := memRead .stage 0 s.cfg.plen.toNat s

/-- The `TXQ.E` bytes of a TXQ slot, the payload of an idle-entry pull (R109). -/
def txqEntry (slot : BitVec 16) (s : State) : Result (List Byte × State) :=
  memRead .txq (slotBase s.txq slot) s.txq.e.toNat s

/-- The address a `TXQ_WR` at `off` stores to: the reserved slot is `TXQ.W` (42_ring.md R185, R188). -/
def txqWrAddr (off : BitVec 8) (s : State) : Nat := slotBase s.txq s.txq.w + off.toNat

/-- The address an `RXQ_RD` at `off` reads (R193). -/
def rxqRdAddr (off : BitVec 8) (s : State) : Nat := slotBase s.rxq s.rxqOslot + off.toNat

/-- The first address a received payload is stored to (R195). -/
def rxqDeliverAddr (s : State) : Nat := slotBase s.rxq s.rxq.w

/-- An offset operand is below the entry size or payload length it meets, both zero-extended (R63, R82). -/
def offsetInRange (off size : BitVec 8) : Bool := decide (off.toNat < size.toNat)

/-- `rx_bits` as the port carries it: exactly `LEN` bits (R80). The bits the input gives come first; the rest are
draws (00_scope.md R15 b; DESIGN CHOICE, log 6). -/
def rxOperand (len : Nat) (given : List Bool) (draws : Nat) : List Bool :=
  given.take len ++ (List.range (len - given.length)).map fun j => Config.rxDraw (draws + j)

end Sys2Proof.Machine
end

