-- ==== Sys2Proof/Machine/HostPort.lean ====
section
/-! DEFINITION. The host commands that belong to no single unit (spec 43_host.md): NOP, STAGE_WR, RDCSR and
CLRCNT. -/

namespace Sys2Proof.Machine

/-- `NOP` (R221); it answers `(0, 0)` while faulted too (R242). -/
def execNop (s : State) : Result State :=
  command .nop (respond false 0) (fun s => .next (respond false 0 s)) s

/-- `STAGE_WR off, data` (R222). -/
def execStageWr (off : BitVec 8) (data : Byte) (s : State) : Result State :=
  command .stageWr refuseFaulted (fun s =>
    if offsetInRange off s.cfg.plen then
      andThen (memWrite .stage off.toNat [data] s) fun s => .next (respond false 0 s)
    else .next (raiseFault .offsetRange (opcodeCode .stageWr) s)) s

/-- The fault state's answer to a legal `RDCSR` (R242). -/
def rdcsrFaulted (addr : BitVec 8) (s : State) : State :=
  match csrValue addr s with
  | some v => respond false v s
  | none => respond true 0 s

/-- `RDCSR addr` (R223). -/
def execRdcsr (addr : BitVec 8) (s : State) : Result State :=
  command .rdcsr (rdcsrFaulted addr) (fun s =>
    match csrValue addr s with
    | some v => .next (respond false v s)
    | none => .next (raiseFault .illegalCsr (opcodeCode .rdcsr) s)) s

/-- `CLRCNT` (R224); refused while faulted (R242). -/
def execClrcnt (s : State) : Result State :=
  command .clrcnt refuseFaulted (fun s => .next (respond false 0 (setCnt .zero s))) s

end Sys2Proof.Machine
end

