-- ==== Sys2Proof/Machine/Crc.lean ====
section
/-! DEFINITION. Byte sequences and bit strings (spec 00_scope.md R13) and the CRC engine: CRC-32/MPEG-2 and the
single-bit error locator (41_codec.md R146 to R149). -/

namespace Sys2Proof.Machine

/-! ## Bit strings (R13) -/

/-- The bits of a value, most significant first. -/
def bitsOf {w : Nat} (v : BitVec w) : List Bool := (List.range w).map v.getMsbD

/-- `bits(B)`: the bit string of a byte sequence, each byte most significant bit first. -/
def bitString (bs : List Byte) : List Bool := bs.flatMap bitsOf

/-- The value whose bits, most significant first, end the given string. -/
def ofBits (w : Nat) (l : List Bool) : BitVec w :=
  l.foldl (fun acc b => (acc <<< 1) ||| (if b then 1 else 0)) 0

/-- `s[lo .. lo+n-1]`. -/
def slice {α : Type} (s : List α) (lo n : Nat) : List α := (s.drop lo).take n

/-- `pack(s)`: zero bits appended to a multiple of 8, then each 8 bits read as a byte. -/
def pack (s : List Bool) : List Byte :=
  let padded := s ++ List.replicate ((8 - s.length % 8) % 8) false
  (List.range (padded.length / 8)).map fun j => ofBits 8 (slice padded (8 * j) 8)

/-- `be32(v)`: the four bytes, most significant first. -/
def be32 (v : Word) : List Byte :=
  [v.extractLsb' 24 8, v.extractLsb' 16 8, v.extractLsb' 8 8, v.extractLsb' 0 8]

/-! ## CRC-32/MPEG-2 (R146) -/

/-- The generator polynomial without its leading term. -/
def crcPoly : Word := 0x04C11DB7

/-- One bit of the computation. -/
def crcBit (c : Word) : Word := if c.getLsbD 31 then (c <<< 1) ^^^ crcPoly else c <<< 1

/-- One byte of the computation. -/
def crcByte (c : Word) (b : Byte) : Word := crcBit^[8] (c ^^^ (b.setWidth 32 <<< 24))

/-- `checksum(data)` (R146). -/
def checksum (data : List Byte) : Word := data.foldl crcByte 0xFFFFFFFF

/-- `crc0(data)`: the same computation with initial value 0 (R146). -/
def crc0 (data : List Byte) : Word := data.foldl crcByte 0

/-! ## Single-bit locator (R149) -/

/-- Message bit `b` inverted: bit `7 - (b mod 8)` of byte `b div 8`. -/
def flipBit (m : List Byte) (b : Nat) : List Byte :=
  m.modify (b / 8) fun x => x ^^^ ((1 : Byte) <<< (7 - b % 8))

/-- `synd(L, b)`: the residual of a message of `L` bytes, all zero except bit `b`. -/
def synd (len b : Nat) : Word := crc0 (flipBit (List.replicate len 0) b)

/-- `locate(r)` for messages of `len` bytes: the smallest bit with that syndrome. -/
def locate (len : Nat) (r : Word) : Option Nat :=
  (List.range (8 * len)).find? fun b => synd len b == r

end Sys2Proof.Machine
end

