-- ==== Sys2Proof/Machine/LineCoding.lean ====
section
/-! DEFINITION. The two line codes (spec 41_codec.md R151 to R156): identity, and the 8b10b data characters with
running disparity. Codes are written in transmission order, first bit leftmost. -/

namespace Sys2Proof.Machine

/-- Running disparity (R153). -/
inductive Disparity where
  | neg
  | pos
deriving DecidableEq, Repr

/-- The table `T6`, bits `abcdei`: the RD- and the RD+ column of each `x` (R154). -/
def t6Table : List (BitVec 6 × BitVec 6) :=
  [ (0b100111, 0b011000), (0b011101, 0b100010), (0b101101, 0b010010), (0b110001, 0b110001),
    (0b110101, 0b001010), (0b101001, 0b101001), (0b011001, 0b011001), (0b111000, 0b000111),
    (0b111001, 0b000110), (0b100101, 0b100101), (0b010101, 0b010101), (0b110100, 0b110100),
    (0b001101, 0b001101), (0b101100, 0b101100), (0b011100, 0b011100), (0b010111, 0b101000),
    (0b011011, 0b100100), (0b100011, 0b100011), (0b010011, 0b010011), (0b110010, 0b110010),
    (0b001011, 0b001011), (0b101010, 0b101010), (0b011010, 0b011010), (0b111010, 0b000101),
    (0b110011, 0b001100), (0b100110, 0b100110), (0b010110, 0b010110), (0b110110, 0b001001),
    (0b001110, 0b001110), (0b101110, 0b010001), (0b011110, 0b100001), (0b101011, 0b010100) ]

/-- The table `T4`, bits `fghj`, with `P7` at `y = 7` (R155). -/
def t4Table : List (BitVec 4 × BitVec 4) :=
  [ (0b1011, 0b0100), (0b1001, 0b1001), (0b0101, 0b0101), (0b1100, 0b0011),
    (0b1101, 0b0010), (0b1010, 0b1010), (0b0110, 0b0110), (0b1110, 0b0001) ]

/-- The alternate code `A7` (R155). -/
def a7 : BitVec 4 × BitVec 4 := (0b0111, 0b1000)

/-- The column of a table row for a running disparity. -/
def column {w : Nat} (row : BitVec w × BitVec w) (rd : Disparity) : BitVec w :=
  match rd with
  | .neg => row.1
  | .pos => row.2

/-- `T6[x][rd]`. -/
def t6 (x : BitVec 5) (rd : Disparity) : BitVec 6 := column (t6Table.getD x.toNat (0, 0)) rd

/-- `T4[y][rd]`. -/
def t4 (y : BitVec 3) (rd : Disparity) : BitVec 4 := column (t4Table.getD y.toNat (0, 0)) rd

/-- `ones(c)`. -/
def ones {w : Nat} (c : BitVec w) : Nat := (bitsOf c).count true

/-- `-rd`. -/
def Disparity.flip : Disparity → Disparity
  | .neg => .pos
  | .pos => .neg

/-- The condition under which `A7` replaces `P7` (R153). -/
def usesA7 (x : BitVec 5) (y : BitVec 3) (rd : Disparity) : Bool :=
  y == 7 && match rd with
    | .neg => [17, 18, 20].contains x.toNat
    | .pos => [11, 13, 14].contains x.toNat

/-- One byte's 10-bit symbol and the running disparity after it (R152, R153). -/
def encodeSymbol (rd : Disparity) (b : Byte) : List Bool × Disparity :=
  let x := b.extractLsb' 0 5
  let y := b.extractLsb' 5 3
  let c6 := t6 x rd
  let rd := if ones c6 ≠ 3 then rd.flip else rd
  let c4 := if usesA7 x y rd then column a7 rd else t4 y rd
  let rd := if ones c4 ≠ 2 then rd.flip else rd
  (bitsOf c6 ++ bitsOf c4, rd)

/-- The symbols of a byte sequence from a running disparity on (R153). -/
def encodeSymbols (rd : Disparity) : List Byte → List Bool
  | [] => []
  | b :: bs => (encodeSymbol rd b).1 ++ encodeSymbols (encodeSymbol rd b).2 bs

/-- `LC(M)` (R141): identity (R151), or 8b10b from RD- (R153). -/
def lineEncode (codec : LineCode) (m : List Byte) : List Bool :=
  match codec with
  | .identity => bitString m
  | .eightTenB => encodeSymbols .neg m

/-- The `x` whose `T6` row holds the code in either column (R156). -/
def decodeSix (c : BitVec 6) : Option Nat := t6Table.findIdx? fun row => row.1 == c || row.2 == c

/-- The `y` whose `T4` row, or `A7`, holds the code in either column (R156). -/
def decodeFour (c : BitVec 4) : Option Nat :=
  match t4Table.findIdx? fun row => row.1 == c || row.2 == c with
  | some y => some y
  | none => if a7.1 == c || a7.2 == c then some 7 else none

/-- `dec_8b10b(s)` (R156); `none` is `invalid`. Running disparity is not checked. -/
def decodeSymbol (s : List Bool) : Option Byte :=
  match decodeSix (ofBits 6 (slice s 0 6)), decodeFour (ofBits 4 (slice s 6 4)) with
  | some x, some y => some (BitVec.ofNat 3 y ++ BitVec.ofNat 5 x)
  | _, _ => none

/-- The line decoder of one symbol (R151, R156). -/
def lineDecode (codec : LineCode) (s : List Bool) : Option Byte :=
  match codec with
  | .identity => some (ofBits 8 s)
  | .eightTenB => decodeSymbol s

end Sys2Proof.Machine
end

