-- ==== Sys2Proof/Machine/Frame.lean ====
section
/-! DEFINITION. The frame codec (spec 41_codec.md R140, R141, R158, R159). -/

namespace Sys2Proof.Machine

/-- `M`: the payload and its checksum, big-endian (R141). -/
def message (p : List Byte) : List Byte := p ++ be32 (checksum p)

/-- The on-air frame: preamble, line-coded message, eight zero bits (R141). -/
def frame (preamble : BitVec 24) (codec : LineCode) (p : List Byte) : List Bool :=
  bitsOf preamble ++ lineEncode codec (message p) ++ List.replicate 8 false

/-- What `decode` answers (R159). -/
inductive DecodeResult where
  | ok (payload : List Byte)
  | okCorrected (payload : List Byte)
  | linecodeFail
  | checksumFail
  | eccFail
deriving DecidableEq, Repr

/-- The first `n` symbols of `size` bits each, line-decoded; `none` where one is invalid (R159). -/
def decodeSymbols (codec : LineCode) (size : Nat) : Nat → List Bool → Option (List Byte)
  | 0, _ => some []
  | n + 1, bits =>
    match lineDecode codec (bits.take size), decodeSymbols codec size n (bits.drop size) with
    | some b, some bs => some (b :: bs)
    | _, _ => none

/-- The check and correction of a decoded message of `crcL` bytes whose payload has `plen` (R159). -/
def checkMessage (plen crcL : Nat) (m : List Byte) : DecodeResult :=
  let r := checksum m
  if r = 0 then .ok (m.take plen)
  else
    match locate crcL r with
    | none => .checksumFail
    | some b =>
      let m' := flipBit m b
      if checksum m' = 0 then .okCorrected (m'.take plen) else .eccFail

/-- `decode(bits)` under a configuration (R159). -/
def decodeFrame (c : CfgRegs) (bits : List Bool) : DecodeResult :=
  if bits.length % c.symbits.toNat ≠ 0 ∨ bits.length < c.rxlen.toNat then .linecodeFail
  else
    match decodeSymbols c.codec c.symbits.toNat (c.plen.toNat + 4) bits with
    | none => .linecodeFail
    | some m => checkMessage c.plen.toNat c.crcL.toNat m

/-- The encode step (R158): `pack` of the frame written to `FRAME_BUF` from byte 0 on. Its bit length is what
`CFG` has put in `FRAME_BITS` (R145), which nothing else writes (R23; log 10). -/
def encodeFrame (p : List Byte) (s : State) : Result State :=
  memWrite .frameBuf 0 (pack (frame s.build.preamble s.cfg.codec p)) s

/-- `WriteFrame(FRAME_BUF, FRAME_BITS)`: the first `FRAME_BITS` bits handed to the transceiver (R14, R145). -/
def writeFrame (s : State) : Result State :=
  andThen (memRead .frameBuf 0 ((s.cfg.frameBits.toNat + 7) / 8) s) fun r =>
    .next (request (.writeFrame ((bitString r.1).take s.cfg.frameBits.toNat)) r.2)

end Sys2Proof.Machine
end

