-- ==== Sys2Proof/Machine/Ring.lean ====
section
/-! DEFINITION. The ring operations that no single command owns: creation (spec 42_ring.md R180), the scheduler's
pull (R194), the codec's delivery (R195) and the synchroniser shift (R200). -/

namespace Sys2Proof.Machine

open Sys2Proof.Config (Build)

/-- `ring_create(q, E)` on one ring's registers; the region is not cleared (R180). -/
def ringCreate (b : Build) (e : BitVec 8) (q : Ring) : Ring where
  mem := q.mem
  e := e
  n := BitVec.ofNat 16 (slotsOf b e.toNat)
  w := 0
  r := 0
  rsync := clearedChain b
  wsync := clearedChain b

/-- Both rings recreated, the reservation and the ownership dropped (R180). -/
def createRings (e : BitVec 8) (s : State) : State :=
  setRxqOslot 0 (setRxqOwned false (setRxq (ringCreate s.build e s.rxq)
    (setTxqReserved false (setTxq (ringCreate s.build e s.txq) s))))

/-- `txq_pop()`: the read cursor moves on; the slot is the cursor before it (R194). -/
def txqPop (s : State) : State := setTxq { s.txq with r := nextSlot s.txq s.txq.r } s

/-- The write cursor moves on, which publishes the slot it was at: `TXQ` (R189). -/
def txqPublish (s : State) : State := setTxq { s.txq with w := nextSlot s.txq s.txq.w } s

/-- The write cursor moves on, which publishes the slot it was at: `RXQ` (R195). -/
def rxqPublish (s : State) : State := setRxq { s.rxq with w := nextSlot s.rxq s.rxq.w } s

/-- `rxq_deliver(p)` (R195). -/
def rxqDeliver (p : List Byte) (s : State) : Result State :=
  if fullP s.build s.rxq then .next (count .rxDropFull s)
  else andThen (memWrite .rxq (rxqDeliverAddr s) (p.take s.rxq.e.toNat) s) fun s => .next (rxqPublish s)

/-- One chain shifted: the newest value enters at register 0, the oldest leaves (R200). -/
def shiftChain (v : BitVec 16) (chain : List (BitVec 16)) : List (BitVec 16) :=
  (binToGray v :: chain).take chain.length

/-- Both chains of a ring shifted once. -/
def shiftRing (q : Ring) : Ring :=
  { q with rsync := shiftChain q.r q.rsync, wsync := shiftChain q.w q.wsync }

/-- The synchroniser shift at the end of a cycle, in a `GRAY` build (R200, 60_exceptions.md R244 step 4). -/
def syncShift (s : State) : State :=
  match s.build.cdcMode with
  | .sync => s
  | .gray => setRxq (shiftRing s.rxq) (setTxq (shiftRing s.txq) s)

end Sys2Proof.Machine
end

