-- ==== Sys2Proof/Machine/Scheduler.lean ====
section
/-! DEFINITION. The MAC scheduler (spec 40_scheduler.md): the schedule table and the timing arithmetic (R100 to
R102), dispatch and its three cases (R105 to R108), idle entry (R109) and the common send path (R110). -/

namespace Sys2Proof.Machine

open Sys2Proof.Config (Build)

/-! ## Schedule table and timing -/

/-- The multipliers `k[0..n-1]` of a station count; no row for any other (R100). -/
def multipliers (n : Nat) : List Nat :=
  match n with
  | 2 => [2, 3]
  | 3 => [2, 3, 5]
  | _ => []

/-- `k(n)[i]` (R100). -/
def multiplier (n i : Nat) : Nat := (multipliers n).getD i 0

/-- `kmax(n)`, the largest multiplier present (R100). -/
def kmaxOf (n : Nat) : Nat := (multipliers n).foldl max 0

/-- `DELTA` of a configuration, in ticks (R101). -/
def deltaOf (b : Build) (codec : LineCode) (plen : Nat) : Nat :=
  txlenOf codec plen * 8 * b.ticksPerBit.toNat + 2 * b.turnaroundTicks.toNat

/-- `GUARD` of a configuration, in ticks (R102). -/
def guardOf (b : Build) (codec : LineCode) (n plen : Nat) : Nat :=
  (kmaxOf n * (n - 1) + 1) * deltaOf b codec plen

/-- `K_I * DELTA`, the period between repetitions (R107). -/
def period (s : State) : Nat := s.cfg.kI.toNat * s.cfg.delta.toNat

/-! ## Dispatch -/

/-- `end_cycle()`: Sending to WaitGuard (R106). -/
def endCycle (s : State) : State :=
  arm s.cfg.guard.toNat (setSched { s.sched with valid := false, state := .waitGuard } s)

/-- The key-up that succeeded (R107). -/
def keyedUp (s : State) : Result State :=
  andThen (writeFrame (setRadio ⟨true, false⟩ s)) fun s =>
    .next (count .txSent (setSched { s.sched with rep := s.sched.rep + 1 } s))

/-- `repetition()`: the timer armed, then the transmitter keyed (R107). -/
def repetition (s : State) : Result State :=
  let s := request (.setMode .tx s.answers.tx) (arm (period s) s)
  if s.answers.tx then keyedUp s else .next (count .txKeyupFail s)

/-- The case `STATE = Sending` of `dispatch()` (R105). -/
def dispatchSending (s : State) : Result State :=
  if s.sched.rep.toNat < s.cfg.n.toNat then repetition s else .next (endCycle s)

/-- `start_send(payload)`: it enters Sending, so its `dispatch()` is the Sending case (R110, R105). -/
def startSend (payload : List Byte) (s : State) : Result State :=
  andThen (encodeFrame payload s) fun s => dispatchSending (setSched ⟨.sending, 0, true⟩ s)

/-- `idle_entry()` (R109). -/
def idleEntry (s : State) : Result State :=
  if countC s.build s.txq = 0 then .next (count .txqEmptyPull s)
  else andThen (txqEntry s.txq.r (txqPop s)) fun r => startSend r.1 r.2

/-- `guard_done()`: WaitGuard to Idle (R108). -/
def guardDone (s : State) : Result State :=
  idleEntry (setSched { s.sched with state := .idle, rep := 0 } s)

/-- `dispatch()` (R105). -/
def dispatch (s : State) : Result State :=
  match s.sched.state with
  | .sending => dispatchSending s
  | .waitGuard => guardDone s
  | .idle => .next s

end Sys2Proof.Machine
end

