-- ==== Sys2Proof/Machine/Mac.lean ====
section
/-! DEFINITION. The scheduler's commands, events and tick (spec 40_scheduler.md R104, R111 to R115). -/

namespace Sys2Proof.Machine

open Sys2Proof.Config (Build)

/-! ## CFG (R111) -/

/-- The first check of `CFG` that fails, in the order of R111 and R240. -/
def cfgCheck (i n plen : BitVec 8) (codec : LineCode) (s : State) : Option Cause :=
  if s.sched.state ≠ .idle then some .cfgBusy
  else if ¬(n.toNat = 2 ∨ n.toNat = 3) then some .cfgBadCount
  else if n.toNat ≤ i.toNat then some .cfgBadId
  else if plen.toNat = 0 ∨ s.build.payloadMax.toNat < plen.toNat then some .cfgBadLen
  else if s.build.ringBytes.toNat / plen.toNat < 2 then some .cfgRingTooSmall
  else if 2 ^ 32 - 1 < guardOf s.build codec n.toNat plen.toNat then some .cfgTimingOverflow
  else none

/-- The configuration registers a successful `CFG` writes (R22, R23). -/
def cfgRegsOf (b : Build) (i n plen : BitVec 8) (codec : LineCode) : CfgRegs where
  configured := true
  i := i
  n := n
  plen := plen
  codec := codec
  symbits := BitVec.ofNat 4 (symbitsOf codec)
  txlen := BitVec.ofNat 16 (txlenOf codec plen.toNat)
  rxlen := BitVec.ofNat 16 (rxlenOf codec plen.toNat)
  frameBits := BitVec.ofNat 16 (framebitsOf codec plen.toNat)
  crcL := BitVec.ofNat 16 (plen.toNat + 4)
  delta := BitVec.ofNat 32 (deltaOf b codec plen.toNat)
  kI := BitVec.ofNat 8 (multiplier n.toNat i.toNat)
  kMax := BitVec.ofNat 8 (kmaxOf n.toNat)
  guard := BitVec.ofNat 32 (guardOf b codec n.toNat plen.toNat)

/-- The writes of a successful `CFG` up to `restore_rx`: registers, scheduler, timer and rings. -/
def cfgApply (i n plen : BitVec 8) (codec : LineCode) (s : State) : State :=
  createRings plen (stopTimer (setSched ⟨.idle, 0, false⟩ (setCfg (cfgRegsOf s.build i n plen codec) s)))

/-- `CFG i, n, plen, codec` (R111). -/
def execCfg (i n plen : BitVec 8) (codec : LineCode) (s : State) : Result State :=
  command .cfg refuseFaulted (fun s =>
    match cfgCheck i n plen codec s with
    | some c => .next (raiseFault c (opcodeCode .cfg) s)
    | none =>
      andThen (idleEntry (restoreRx (cfgApply i n plen codec s))) fun s => .next (respond false 0 s)) s

/-! ## SEND (R112) -/

/-- `SEND` (R112). -/
def execSend (s : State) : Result State :=
  command .send refuseFaulted (fun s =>
    if s.sched.state ≠ .idle ∨ s.sched.valid = true then .next (respond true 0 s)
    else
      andThen (stagePayload s) fun r =>
        andThen (startSend r.1 r.2) fun s => .next (respond false 0 s)) s

/-! ## Transceiver events -/

/-- `EV_TX_EMPTY` (R113). -/
def execEvTxEmpty (s : State) : Result State := gated (fun s => .next (restoreRx s)) s

/-- `EV_TX_READY` has no effect on the core (R114). -/
def execEvTxReady (s : State) : Result State := gated (fun s => .next s) s

/-- `EV_TX_ERROR` (R115). -/
def execEvTxError (s : State) : Result State := gated (fun s => .next (restoreRx (count .txError s))) s

/-! ## Tick (R104) -/

/-- A pending return to receive mode retried (R104, R116). -/
def retryRx (s : State) : State := if s.radio.rxRestore then restoreRx s else s

/-- The countdown of an armed timer; at 0 the timer stops and the expiry dispatches (R104). -/
def countdown (s : State) : Result State :=
  if s.timer.armed then
    let left := s.timer.count - 1
    if left = 0 then dispatch (setTimer ⟨false, 0⟩ s) else .next (setTimer ⟨true, left⟩ s)
  else .next s

/-- The tick step (R104). -/
def execTick (s : State) : Result State := gated (fun s => countdown (retryRx s)) s

end Sys2Proof.Machine
end

