-- ==== Sys2Proof/Machine/Rxq.lean ====
section
/-! DEFINITION. The commands of the RXQ host consumer (spec 42_ring.md R192, R193, R196) and the receive event that
feeds the ring (41_codec.md R164). -/

namespace Sys2Proof.Machine

/-- A pop that finds an entry (R192). -/
def rxqTake (s : State) : State :=
  setRxq { s.rxq with r := nextSlot s.rxq s.rxq.r } (setRxqOwned true (setRxqOslot s.rxq.r s))

/-- `RXQ_POP` (R192); every pop ends the ownership of the entry before it. -/
def execRxqPop (s : State) : Result State :=
  command .rxqPop refuseFaulted (fun s =>
    let s := setRxqOwned false s
    if emptyC s.build s.rxq then .next (respond true 0 (count .rxqEmpty s))
    else .next (respond false (s.rxq.r.setWidth 32) (rxqTake s))) s

/-- `RXQ_RD off` (R193). -/
def execRxqRd (off : BitVec 8) (s : State) : Result State :=
  command .rxqRd refuseFaulted (fun s =>
    if !s.rxqOwned then .next (raiseFault .rxqNotOwned (opcodeCode .rxqRd) s)
    else if offsetInRange off s.rxq.e then
      andThen (memRead .rxq (rxqRdAddr off s) 1 s) fun r =>
        .next (respond false ((r.1.headD 0).setWidth 32) r.2)
    else .next (raiseFault .offsetRange (opcodeCode .rxqRd) s)) s

/-- `RXQ_COUNT` (R196). -/
def execRxqCount (s : State) : Result State :=
  command .rxqCount refuseFaulted (fun s =>
    .next (respond false (BitVec.ofNat 32 (countC s.build s.rxq)) s)) s

/-- What `EV_RX_EOM` does with a decode result (R164). -/
def receive (res : DecodeResult) (s : State) : Result State :=
  match res with
  | .linecodeFail => .next (count .rxLinecodeFail s)
  | .checksumFail => .next (count .rxChecksumFail s)
  | .eccFail => .next (count .rxEccFail s)
  | .ok p => rxqDeliver p (count .rxOk s)
  | .okCorrected p => rxqDeliver p (count .rxCorrected s)

/-- `EV_RX_EOM LEN, rx_bits` (R164); `LEN` is the length of `rx_bits` (R80). -/
def execEvRxEom (rxBits : List Bool) (s : State) : Result State :=
  gated (fun s => receive (decodeFrame s.cfg rxBits) s) s

end Sys2Proof.Machine
end

