-- ==== Sys2Proof/Machine/Txq.lean ====
section
/-! DEFINITION. The commands of the TXQ host producer (spec 42_ring.md R187 to R191). -/

namespace Sys2Proof.Machine

/-- `TXQ_RESERVE` (R187). -/
def execTxqReserve (s : State) : Result State :=
  command .txqReserve refuseFaulted (fun s =>
    if s.txqReserved then .next (raiseFault .txqDoubleReserve (opcodeCode .txqReserve) s)
    else if fullP s.build s.txq then .next (respond true 0 (count .txqFull s))
    else .next (respond false (s.txq.w.setWidth 32) (setTxqReserved true s))) s

/-- `TXQ_WR off, data` (R188). -/
def execTxqWr (off : BitVec 8) (data : Byte) (s : State) : Result State :=
  command .txqWr refuseFaulted (fun s =>
    if !s.txqReserved then .next (raiseFault .txqNoReservation (opcodeCode .txqWr) s)
    else if offsetInRange off s.txq.e then
      andThen (memWrite .txq (txqWrAddr off s) [data] s) fun s => .next (respond false 0 s)
    else .next (raiseFault .offsetRange (opcodeCode .txqWr) s)) s

/-- `TXQ_COMMIT` (R189). -/
def execTxqCommit (s : State) : Result State :=
  command .txqCommit refuseFaulted (fun s =>
    if !s.txqReserved then .next (raiseFault .txqNoReservation (opcodeCode .txqCommit) s)
    else .next (respond false 0 (txqPublish (setTxqReserved false s)))) s

/-- `TXQ_ABANDON` (R190). -/
def execTxqAbandon (s : State) : Result State :=
  command .txqAbandon refuseFaulted (fun s =>
    if !s.txqReserved then .next (raiseFault .txqNoReservation (opcodeCode .txqAbandon) s)
    else .next (respond false 0 (setTxqReserved false s))) s

/-- `TXQ_COUNT` (R191). -/
def execTxqCount (s : State) : Result State :=
  command .txqCount refuseFaulted (fun s =>
    .next (respond false (BitVec.ofNat 32 (countP s.build s.txq)) s)) s

end Sys2Proof.Machine
end

