-- ==== Sys2Proof/Machine/Dispatch.lean ====
section
/-! DEFINITION. One arm per operation of spec/opcode_table.json. -/

namespace Sys2Proof.Machine

open Sys2Proof

def exec (i : Instr) (s : State) : Host.Outcome State Fault Refusal :=
  match i with
  | .nop => Sys2Proof.Machine.execNop s
  | .cfg ident n plen codec => Sys2Proof.Machine.execCfg ident n plen codec s
  | .stageWr off data => Sys2Proof.Machine.execStageWr off data s
  | .send => Sys2Proof.Machine.execSend s
  | .txqReserve => Sys2Proof.Machine.execTxqReserve s
  | .txqWr off data => Sys2Proof.Machine.execTxqWr off data s
  | .txqCommit => Sys2Proof.Machine.execTxqCommit s
  | .txqAbandon => Sys2Proof.Machine.execTxqAbandon s
  | .txqCount => Sys2Proof.Machine.execTxqCount s
  | .rxqPop => Sys2Proof.Machine.execRxqPop s
  | .rxqRd off => Sys2Proof.Machine.execRxqRd off s
  | .rxqCount => Sys2Proof.Machine.execRxqCount s
  | .rdcsr addr => Sys2Proof.Machine.execRdcsr addr s
  | .clrcnt => Sys2Proof.Machine.execClrcnt s
  | .evRxEom _ rxBits => Sys2Proof.Machine.execEvRxEom rxBits s
  | .evTxEmpty => Sys2Proof.Machine.execEvTxEmpty s
  | .evTxReady => Sys2Proof.Machine.execEvTxReady s
  | .evTxError => Sys2Proof.Machine.execEvTxError s
  | .tick => Sys2Proof.Machine.execTick s

end Sys2Proof.Machine
end

