-- ==== Sys2Proof/Machine/Cycle.lean ====
section
/-! DEFINITION. One cycle of the core (spec 60_exceptions.md R244): what the ports present, the event step, the
tick step, the command step, the synchroniser shift and the IRQ pin, in that order; or the reset. -/

namespace Sys2Proof.Machine

open Sys2Proof

/-- A cycle in which nothing is presented. The answers are read by no step. -/
def quietCycle : CycleIn where
  rst := false
  evWord := 0
  rxBits := []
  tick := false
  cmd := none
  evAnswers := ⟨true, true⟩
  tickAnswers := ⟨true, true⟩
  cmdAnswers := ⟨true, true⟩

/-- What the agents present in the next cycle; nothing once the list is used up (log 2). -/
def nextInput (s : State) : CycleIn := s.inputs.headD quietCycle

/-- The state in which a cycle's steps begin: its input taken from the list, no request made yet. -/
def openCycle (s : State) : State := setRequests [] (setInputs s.inputs.tail s)

/-- The event port's input: `rx_bits` made exactly `LEN` bits for `EV_RX_EOM` (R80, log 6). -/
def eventInput (c : CycleIn) (s : State) : PortInput :=
  .event c.evWord (rxOperand (lenField c.evWord).toNat c.rxBits s.draws)

/-- The draws `eventInput` takes: only `EV_RX_EOM` reads the operand (R87). -/
def eventDraws (c : CycleIn) : Nat :=
  if (evField c.evWord).toNat = 2 then (lenField c.evWord).toNat - c.rxBits.length else 0

/-- The event step (R244 step 1): no event and a reserved code have no effect (R86, R87). -/
def eventStep (c : CycleIn) (s : State) : Result State :=
  match decode (eventInput c s) with
  | .ok i => exec i (setDraws (s.draws + eventDraws c) (setAnswers c.evAnswers s))
  | .error _ => .next s

/-- The tick step (R244 step 2). -/
def tickStep (c : CycleIn) (s : State) : Result State :=
  if c.tick then exec .tick (setAnswers c.tickAnswers s) else .next s

/-- The command step (R244 step 3): an illegal word faults (R84). -/
def commandStep (c : CycleIn) (s : State) : Result State :=
  match c.cmd with
  | none => .next s
  | some w =>
    match decode (.command w) with
    | .ok i => exec i (setAnswers c.cmdAnswers s)
    | .error _ => .next (illegalCommand w s)

/-- The end of a cycle: the synchroniser shift, then the IRQ pin (R244 steps 4 and 5). -/
def closeCycle (s : State) : State :=
  let s := syncShift s
  setIrq (irqOf s) s

/-- One cycle. -/
def cycle (s : State) : Result State :=
  let c := nextInput s
  let s := openCycle s
  if c.rst then .next (resetCycle s)
  else
    andThen (eventStep c s) fun s =>
      andThen (tickStep c s) fun s =>
        andThen (commandStep c s) fun s => .next (closeCycle s)

/-- The cycle in which one port's input, and nothing else, is presented; every `SetMode` is answered `ok`, as in
TP1 (R10, log 8). -/
def cycleOf (p : PortInput) : CycleIn :=
  match p with
  | .command w => { quietCycle with cmd := some w }
  | .event w rxBits => { quietCycle with evWord := w, rxBits := rxBits }
  | .tick => { quietCycle with tick := true }

end Sys2Proof.Machine
end

