-- ==== Sys2Proof/Machine/Step.lean ====
section
/-! DEFINITION. The machine's step is one cycle (spec 60_exceptions.md R244, log 3). -/

namespace Sys2Proof.Machine

/-- One cycle of the core. -/
def step (s : State) : Host.Outcome State Fault Refusal := cycle s

/-- The state with a table word as what is presented in the next cycle (log 8). The core fetches no program
(R2): its operations are presented to its ports, and the next cycle's input is the head of `inputs`. -/
def State.withFetchWord (s : State) (nbits w : Nat) : State :=
  setInputs (cycleOf (tableInput nbits w) :: s.inputs.tail) s

end Sys2Proof.Machine
end

