-- ==== Sys2Proof/Machine/Asm.lean ====
section
/-! DEFINITION. The spec's notation for hosts and tests (spec 30_encoding.md R89 to R91): assembler lines with
their operands as numbers, the pseudo-instructions, and scripts as lists of cycles. The characters of a source line
are no part of it (log 13). -/

namespace Sys2Proof.Machine

open Sys2Proof

/-- A line of assembler (R89, R90). -/
inductive AsmLine where
  | nop
  | cfg (i n plen : Nat) (codec : LineCode)
  | stageWr (off data : Nat)
  | send
  | txqReserve
  | txqWr (off data : Nat)
  | txqCommit
  | txqAbandon
  | txqCount
  | rxqPop
  | rxqRd (off : Nat)
  | rxqCount
  | rdcsr (addr : Nat)
  | clrcnt
  /-- `.word v`: a raw command word. -/
  | word (v : Nat)
  /-- `STAGE b0 b1 ...`. -/
  | stage (bytes : List Nat)
  /-- `PUSH b0 b1 ...`. -/
  | push (bytes : List Nat)
  /-- `POPRD P`. -/
  | poprd (p : Nat)
deriving DecidableEq, Repr

/-- A number as a field of `w` bits: "an operand that does not fit its field is an assembly error, never a
truncation" (R89). -/
def asmField (w v : Nat) : Option (BitVec w) := if v < 2 ^ w then some (BitVec.ofNat w v) else none

/-- The command word of an instruction of the command port. -/
def commandWord (i : Instr) : Option Word :=
  match encode i with
  | .command w => some w
  | .event _ _ => none
  | .tick => none

/-- A two-operand byte line. -/
def asmByteWrite (mk : BitVec 8 → Byte → Instr) (off data : Nat) : Option Word :=
  (asmField 8 off).bind fun o => (asmField 8 data).bind fun d => commandWord (mk o d)

/-- A one-operand line. -/
def asmOne (mk : BitVec 8 → Instr) (v : Nat) : Option Word := (asmField 8 v).bind fun x => commandWord (mk x)

/-- The byte writes at offsets `k`, `k + 1`, ... (R90). -/
def asmBytes (mk : BitVec 8 → Byte → Instr) : Nat → List Nat → Option (List Word)
  | _, [] => some []
  | k, b :: bs => (asmByteWrite mk k b).bind fun w => (asmBytes mk (k + 1) bs).map (w :: ·)

/-- The byte reads at offsets `k`, ..., `k + n - 1` (R90). -/
def asmReads : Nat → Nat → Option (List Word)
  | _, 0 => some []
  | k, n + 1 => (asmOne .rxqRd k).bind fun w => (asmReads (k + 1) n).map (w :: ·)

/-- The command words a line stands for, each in its own cycle; `none` is an assembly error (R89, R90). -/
def assemble (l : AsmLine) : Option (List Word) :=
  match l with
  | .nop => (commandWord .nop).map ([·])
  | .cfg i n plen codec =>
    (asmField 8 i).bind fun i => (asmField 8 n).bind fun n => (asmField 8 plen).bind fun p =>
      (commandWord (.cfg i n p codec)).map ([·])
  | .stageWr off data => (asmByteWrite .stageWr off data).map ([·])
  | .send => (commandWord .send).map ([·])
  | .txqReserve => (commandWord .txqReserve).map ([·])
  | .txqWr off data => (asmByteWrite .txqWr off data).map ([·])
  | .txqCommit => (commandWord .txqCommit).map ([·])
  | .txqAbandon => (commandWord .txqAbandon).map ([·])
  | .txqCount => (commandWord .txqCount).map ([·])
  | .rxqPop => (commandWord .rxqPop).map ([·])
  | .rxqRd off => (asmOne .rxqRd off).map ([·])
  | .rxqCount => (commandWord .rxqCount).map ([·])
  | .rdcsr addr => (asmOne .rdcsr addr).map ([·])
  | .clrcnt => (commandWord .clrcnt).map ([·])
  | .word v => (asmField 32 v).map ([·])
  | .stage bytes => asmBytes .stageWr 0 bytes
  | .push bytes =>
    (commandWord .txqReserve).bind fun r => (asmBytes .txqWr 0 bytes).bind fun ws =>
      (commandWord .txqCommit).map fun c => r :: ws ++ [c]
  | .poprd p => (commandWord .rxqPop).bind fun w => (asmReads 0 p).map (w :: ·)

/-! ## Scripts (R91) -/

/-- An item of a test script. -/
inductive ScriptItem where
  /-- `@t`: the items after it run after exactly `t` ticks since reset. -/
  | at (t : Nat)
  /-- A line; `answers` are what the Radio answers in its cycles. -/
  | line (l : AsmLine) (answers : Answers)
  /-- An event word with its `rx_bits`. -/
  | event (w : Word) (rxBits : List Bool) (answers : Answers)
deriving DecidableEq, Repr

/-- The cycles of a script from a number of delivered ticks on: each item its own cycle with `tick = 0`, the ticks
in cycles that carry nothing else and in which every `SetMode` is answered `ok`; `none` is an assembly error or an
`@t` that lies in the past. -/
def scriptCycles : Nat → List ScriptItem → Option (List CycleIn)
  | _, [] => some []
  | k, .at t :: rest =>
    if k ≤ t then (scriptCycles t rest).map (List.replicate (t - k) (cycleOf .tick) ++ ·) else none
  | k, .line l a :: rest =>
    (assemble l).bind fun ws =>
      (scriptCycles k rest).map (ws.map (fun w => { cycleOf (.command w) with cmdAnswers := a }) ++ ·)
  | k, .event w bits a :: rest =>
    (scriptCycles k rest).map ({ cycleOf (.event w bits) with evAnswers := a } :: ·)

end Sys2Proof.Machine
end

