-- ==== Sys2Proof/Safety.lean ====
section
/-! DEFINITION. What counts as a safe state and a safe run, in the terms the statements use: the invariants of the
spec (40_scheduler.md R117, 42_ring.md R195, R198, R202, and the ranges of 00_scope.md R9), what a ring holds (R184), and
runs of ticks (40_scheduler.md R118). -/

namespace Sys2Proof.Safety

open Sys2Proof Sys2Proof.Machine
open Sys2Proof.Config (Build)

/-! ## What a ring holds (R184) -/

/-- The bytes of a slot, `none` where a byte was not written since reset (R66, 10_state.md R58). -/
def slotBytes (q : Ring) (slot : Nat) : List (Option Byte) :=
  (List.range q.e.toNat).map fun j => q.mem.read? (slot * q.e.toNat + j)

/-- The committed entries, oldest first: the slots from the read cursor up to the write cursor. -/
def entries (q : Ring) : List (List (Option Byte)) :=
  (List.range (ringCount q)).map fun j => slotBytes q ((q.r.toNat + j) % q.n.toNat)

/-! ## Invariants -/

/-- Every memory is in canonical form and lists only bytes that exist (20_memory.md R60). -/
def MemInv (s : State) : Prop :=
  ∀ k : MemKind, (memOf k s).wf = true ∧ (memOf k s).below (memSize s.build k) = true

/-- The configuration registers hold what a legal `CFG` computes (10_state.md R22, R23, 40_scheduler.md R111). -/
structure CfgLegal (b : Build) (c : CfgRegs) : Prop where
  station : c.n.toNat = 2 ∨ c.n.toNat = 3
  ident : c.i.toNat < c.n.toNat
  plenPos : 1 ≤ c.plen.toNat
  plenMax : c.plen.toNat ≤ b.payloadMax.toNat
  slots : 2 ≤ b.ringBytes.toNat / c.plen.toNat
  timing : guardOf b c.codec c.n.toNat c.plen.toNat ≤ 2 ^ 32 - 1
  derived : c = cfgRegsOf b c.i c.n c.plen c.codec

/-- Configured legally, or not at all and every configuration register 0 (R22, R23). -/
def ConfigInv (s : State) : Prop :=
  (s.cfg.configured = true → CfgLegal s.build s.cfg) ∧ (s.cfg.configured = false → s.cfg = .reset)

/-- A ring's geometry and cursors (42_ring.md R180, R198 item 1); all 0 while unconfigured (R56). -/
structure RingShape (b : Build) (c : CfgRegs) (q : Ring) : Prop where
  rsyncLen : q.rsync.length = (clearedChain b).length
  wsyncLen : q.wsync.length = (clearedChain b).length
  entry : q.e = c.plen
  slots : q.n.toNat = if c.configured then slotsOf b c.plen.toNat else 0
  wBound : c.configured = true → q.w.toNat < q.n.toNat
  rBound : c.configured = true → q.r.toNat < q.n.toNat
  wZero : c.configured = false → q.w = 0
  rZero : c.configured = false → q.r = 0

/-- Every cursor value a synchroniser chain of a configured ring holds is a slot, and is no newer than the values
before it: seen from the write cursor, an older read cursor lies farther back, and seen from the read cursor, an
older write cursor lies less far ahead (R200, R202). -/
structure ViewsLag (q : Ring) : Prop where
  rsyncBound : ∀ g ∈ q.rsync, (grayToBin g).toNat < q.n.toNat
  wsyncBound : ∀ g ∈ q.wsync, (grayToBin g).toNat < q.n.toNat
  rsyncLag : List.Pairwise (fun x y => cursorDist q.n q.w x ≤ cursorDist q.n q.w y)
    (q.r :: q.rsync.map grayToBin)
  wsyncLag : List.Pairwise (fun x y => cursorDist q.n y q.r ≤ cursorDist q.n x q.r)
    (q.w :: q.wsync.map grayToBin)

/-- The ring invariants (R198, and R202 for the chains of a `GRAY` build). -/
structure RingInv (s : State) : Prop where
  txqShape : RingShape s.build s.cfg s.txq
  rxqShape : RingShape s.build s.cfg s.rxq
  txqLag : s.cfg.configured = true → ViewsLag s.txq
  rxqLag : s.cfg.configured = true → ViewsLag s.rxq
  reserved : s.txqReserved = true → s.cfg.configured = true ∧ fullP s.build s.txq = false
  owned : s.rxqOwned = true →
    s.cfg.configured = true ∧ s.rxqOslot.toNat = cursorDist s.rxq.n s.rxq.r 1

/-- Every byte that the host can come to read through RXQ was written by a delivery: those of the committed entries
and those of the entry it owns (R193, R195). -/
structure RxqWritten (s : State) : Prop where
  committed : ∀ cells ∈ entries s.rxq, none ∉ cells
  owned : s.rxqOwned = true → none ∉ slotBytes s.rxq s.rxqOslot.toNat

/-- The scheduler invariants (R117). Item 3 holds while not faulted; a fault stops the timer (60_exceptions.md
R241). -/
structure SchedInv (s : State) : Prop where
  valid : s.sched.valid = true ↔ s.sched.state = .sending
  armed : s.fault.faulted = false → (s.timer.armed = true ↔ s.sched.state ≠ .idle)
  stopped : s.fault.faulted = true → s.timer.armed = false
  repMax : s.sched.rep.toNat ≤ s.cfg.n.toNat
  repIdle : s.sched.state = .idle → s.sched.rep = 0
  repGuard : s.sched.state = .waitGuard → s.sched.rep.toNat = s.cfg.n.toNat
  countMax : s.timer.count.toNat ≤ s.cfg.guard.toNat
  countZero : s.timer.armed = false → s.timer.count = 0
  countPos : s.timer.armed = true → 1 ≤ s.timer.count.toNat
  unconfigured : s.cfg.configured = false → s.sched.state = .idle ∧ s.timer.armed = false

/-- The fault registers: no cause without a fault, and a cause of R239 with one. -/
structure FaultInv (s : State) : Prop where
  clear : s.fault.faulted = false → s.fault.cause = 0 ∧ s.fault.op = 0
  named : s.fault.faulted = true → ∃ c : Cause, s.fault.cause = causeCode c

/-- The invariant of the core: every state a run from reset reaches has it, and so have many that none does. -/
structure Inv (s : State) : Prop where
  build : s.build.Valid
  mem : MemInv s
  config : ConfigInv s
  ring : RingInv s
  written : RxqWritten s
  sched : SchedInv s
  fault : FaultInv s

/-! ## What reading gives (10_state.md R58) -/

/-- A payload that reading bytes may give: each byte written is itself, each other byte is some value (R58). -/
def Reads (cells : List (Option Byte)) (p : List Byte) : Prop :=
  List.Forall₂ (fun c v => ∀ u, c = some u → v = u) cells p

/-- The bytes of the staging buffer that `SEND` reads (40_scheduler.md R112). -/
def stagedBytes (s : State) : List (Option Byte) :=
  (List.range s.cfg.plen.toNat).map fun j => s.stage.read? j

/-! ## The line codes, row by row

The code tables as the spec prints them, so that a statement rests on no table of the model. -/

/-- The 6-bit codes `abcdei` of each `x`, for RD- and for RD+ (41_codec.md R154). -/
def sixRows : List (BitVec 6 × BitVec 6) :=
  [ (0b100111, 0b011000), (0b011101, 0b100010), (0b101101, 0b010010), (0b110001, 0b110001),
    (0b110101, 0b001010), (0b101001, 0b101001), (0b011001, 0b011001), (0b111000, 0b000111),
    (0b111001, 0b000110), (0b100101, 0b100101), (0b010101, 0b010101), (0b110100, 0b110100),
    (0b001101, 0b001101), (0b101100, 0b101100), (0b011100, 0b011100), (0b010111, 0b101000),
    (0b011011, 0b100100), (0b100011, 0b100011), (0b010011, 0b010011), (0b110010, 0b110010),
    (0b001011, 0b001011), (0b101010, 0b101010), (0b011010, 0b011010), (0b111010, 0b000101),
    (0b110011, 0b001100), (0b100110, 0b100110), (0b010110, 0b010110), (0b110110, 0b001001),
    (0b001110, 0b001110), (0b101110, 0b010001), (0b011110, 0b100001), (0b101011, 0b010100) ]

/-- The 4-bit codes `fghj` of each `y`, for RD- and for RD+, with `P7` at 7 (41_codec.md R155). -/
def fourRows : List (BitVec 4 × BitVec 4) :=
  [ (0b1011, 0b0100), (0b1001, 0b1001), (0b0101, 0b0101), (0b1100, 0b0011),
    (0b1101, 0b0010), (0b1010, 0b1010), (0b0110, 0b0110), (0b1110, 0b0001) ]

/-- The alternate code `A7` of `y = 7` (41_codec.md R155). -/
def altSeven : BitVec 4 × BitVec 4 := (0b0111, 0b1000)

/-- The running disparity after a sub-block: an unbalanced one flips it (41_codec.md R153). -/
def rdAfter {w : Nat} (rd : Disparity) (code : BitVec w) : Disparity :=
  if 2 * (bitsOf code).count true = w then rd else rd.flip

/-- The 6-bit code of a byte from a running disparity (41_codec.md R153, R154). -/
def sixOf (rd : Disparity) (b : Byte) : BitVec 6 := column (sixRows.getD (b.extractLsb' 0 5).toNat (0, 0)) rd

/-- The 4-bit code of a byte from the running disparity after its 6-bit code, `A7` where the rule has it
(41_codec.md R153, R155). -/
def fourOf (rd : Disparity) (b : Byte) : BitVec 4 :=
  if (b.extractLsb' 5 3).toNat = 7 ∧
      (b.extractLsb' 0 5).toNat ∈ (match rd with | .neg => [17, 18, 20] | .pos => [11, 13, 14])
  then column altSeven rd
  else column (fourRows.getD (b.extractLsb' 5 3).toNat (0, 0)) rd

/-- A received symbol stands for a byte: its 8 bits (41_codec.md R151), or in 8b10b a code of its `x` and a code of
its `y`, each from either column (R156). -/
def Stands (codec : LineCode) (symbol : List Bool) (b : Byte) : Prop :=
  match codec with
  | .identity => symbol = bitsOf b
  | .eightTenB => ∃ (rd rd' : Disparity) (four : BitVec 4),
      (four = column (fourRows.getD (b.extractLsb' 5 3).toNat (0, 0)) rd' ∨
        ((b.extractLsb' 5 3).toNat = 7 ∧ four = column altSeven rd')) ∧
      symbol = bitsOf (sixOf rd b) ++ bitsOf four

/-- Received symbol `j` under a configuration. -/
def symbolAt (c : CfgRegs) (bits : List Bool) (j : Nat) : List Bool :=
  slice bits (j * c.symbits.toNat) c.symbits.toNat

/-- Received bits carry a message: whole symbols, no fewer than `RXLEN` bits, the first `CFG_PLEN + 4` symbols
standing for its bytes (41_codec.md R159). -/
structure Carries (c : CfgRegs) (bits : List Bool) (m : List Byte) : Prop where
  whole : bits.length % c.symbits.toNat = 0
  enough : c.rxlen.toNat ≤ bits.length
  length : m.length = c.plen.toNat + 4
  stands : ∀ (j : Nat) (b : Byte), m[j]? = some b → Stands c.codec (symbolAt c bits j) b

/-! ## Conditions the statements share -/

/-- Events, ticks and every command are accepted (30_encoding.md R85, R88). -/
def Ready (s : State) : Prop := s.cfg.configured = true ∧ s.fault.faulted = false

/-- The first cycle to come presents this port's input and nothing else, with these answers of the Radio. -/
def Presents (p : PortInput) (a : Answers) (s : State) : Prop :=
  (nextInput s) = { cycleOf p with evAnswers := a, tickAnswers := a, cmdAnswers := a }

/-- The operation is a command, with this opcode. -/
def opcodeOfInstr : Instr → Option Opcode
  | .nop => some .nop
  | .cfg .. => some .cfg
  | .stageWr .. => some .stageWr
  | .send => some .send
  | .txqReserve => some .txqReserve
  | .txqWr .. => some .txqWr
  | .txqCommit => some .txqCommit
  | .txqAbandon => some .txqAbandon
  | .txqCount => some .txqCount
  | .rxqPop => some .rxqPop
  | .rxqRd .. => some .rxqRd
  | .rxqCount => some .rxqCount
  | .rdcsr .. => some .rdcsr
  | .clrcnt => some .clrcnt
  | .evRxEom .. => none
  | .evTxEmpty => none
  | .evTxReady => none
  | .evTxError => none
  | .tick => none

/-! ## Register by register

What the rules do to the state, written out field by field so that a statement rests on no operation of the model. -/

/-- The answer `respond(fail, data)` and nothing else (43_host.md R220). -/
def answered (fail : Bool) (data : Word) (s : State) : State := { s with rsp := ⟨fail, data⟩ }

/-- The fault entry: the fault registers, the timer stopped, the answer `(1, 0)` and nothing else
(60_exceptions.md R241). -/
def faultedWith (cause : BitVec 8) (op : BitVec 5) (s : State) : State :=
  { s with fault := ⟨true, cause, op⟩, timer := ⟨false, 0⟩, rsp := ⟨true, 0⟩ }

/-- The return to receive mode with the Radio's answer, and nothing else (40_scheduler.md R116). -/
def restored (s : State) : State :=
  { s with
    radio := if s.answers.rx then ⟨false, false⟩ else ⟨s.radio.radioTx, true⟩
    cnt := if s.answers.rx then s.cnt else { s.cnt with rxModeFail := s.cnt.rxModeFail + 1 }
    requests := s.requests ++ [.setMode .rx s.answers.rx] }

/-- A pending return to receive mode retried first in a tick (40_scheduler.md R104). -/
def afterRetry (s : State) : State := if s.radio.rxRestore then restored s else s

/-- `DELTA` in ticks (40_scheduler.md R101, 41_codec.md R142, R143). -/
def deltaTicks (b : Build) (codec : LineCode) (plen : Nat) : Nat :=
  let symbits := match codec with
    | .identity => 8
    | .eightTenB => 10
  (24 + symbits * (plen + 4) + 8 + 7) / 8 * 8 * b.ticksPerBit.toNat + 2 * b.turnaroundTicks.toNat

/-- `GUARD` in ticks: "4·`DELTA` for `n = 2` and 11·`DELTA` for `n = 3`" (40_scheduler.md R102). -/
def guardTicks (b : Build) (codec : LineCode) (n plen : Nat) : Nat :=
  (if n = 2 then 4 else 11) * deltaTicks b codec plen

/-- A `CFG` that passes every check of its rule (40_scheduler.md R111). -/
structure CfgAccepted (s : State) (i n plen : BitVec 8) (codec : LineCode) : Prop where
  notFaulted : s.fault.faulted = false
  idle : s.sched.state = .idle
  station : n.toNat = 2 ∨ n.toNat = 3
  ident : i.toNat < n.toNat
  plenPos : 1 ≤ plen.toNat
  plenMax : plen.toNat ≤ s.build.payloadMax.toNat
  slots : 2 ≤ s.build.ringBytes.toNat / plen.toNat
  timing : guardTicks s.build codec n.toNat plen.toNat ≤ 2 ^ 32 - 1

/-- `start_send(p)` from `s` has led to `t`: the frame stands in `FRAME_BUF`, Sending is entered, the period is
armed and the first repetition was keyed up, with the Radio's answer; nothing else changed but the number of draws
(40_scheduler.md R110, R107, 41_codec.md R158). -/
structure Started (p : List Byte) (s t : State) : Prop where
  registers : t =
    { s with
      frameBuf := t.frameBuf
      sched := ⟨.sending, if s.answers.tx then 1 else 0, true⟩
      timer := ⟨true, t.timer.count⟩
      radio := if s.answers.tx then ⟨true, false⟩ else s.radio
      cnt := t.cnt
      requests := s.requests ++ .setMode .tx s.answers.tx ::
        if s.answers.tx then [.writeFrame (frame s.build.preamble s.cfg.codec p)] else []
      draws := t.draws }
  wait : t.timer.count.toNat = s.cfg.kI.toNat * s.cfg.delta.toNat
  buffer : ∀ a, t.frameBuf.read? a =
    if a < s.cfg.txlen.toNat then (pack (frame s.build.preamble s.cfg.codec p))[a]? else s.frameBuf.read? a
  counters : ∀ c, t.cnt.get c =
    s.cnt.get c + if c = (if s.answers.tx then .txSent else .txKeyupFail) then 1 else 0

/-! ## Runs -/

/-- `k` tick steps, one after another (40_scheduler.md R104). -/
def ticks : Nat → State → Result State
  | 0, s => .next s
  | k + 1, s => andThen (exec .tick s) (ticks k)

/-- The operations a cycle presents, in the order of 60_exceptions.md R244, each with the Radio's answers in its
step. -/
def presented (c : CycleIn) : List (Answers × Instr) :=
  (match decode (.event c.evWord c.rxBits) with
    | .ok i => [(c.evAnswers, i)]
    | .error _ => []) ++
  (if c.tick then [(c.tickAnswers, .tick)] else []) ++
  (match c.cmd with
    | none => []
    | some w =>
      match decode (.command w) with
      | .ok i => [(c.cmdAnswers, i)]
      | .error _ => [])

/-- Operations run one after another, each with its answers of the Radio. -/
def runAll : List (Answers × Instr) → State → Result State
  | [], s => .next s
  | (a, i) :: l, s => andThen (exec i { s with answers := a }) (runAll l)

/-- The requests of `k` successful repetitions of one frame (40_scheduler.md R107). -/
def repetitions (k : Nat) (f : List Bool) : List RadioRequest :=
  (List.replicate k [RadioRequest.setMode .tx true, .writeFrame f]).flatten

/-- A state some run reaches from the reset of a legal build, whatever the agents present (70_reset_and_hazards.md
R270). -/
inductive Reachable (b : Build) : State → Prop where
  | reset (l : List CycleIn) (h : b.Valid) : Reachable b (setInputs l (State.resetOf b))
  | step {s t : State} (h : Reachable b s) (hs : Machine.step s = .next t) : Reachable b t

end Sys2Proof.Safety
end

