-- ==== Sys2Proof/Certificates/Slice0/Obligations.lean ====
section
/-! DEFINITION. The statements for the provers, one definition each. A docstring names the rule of spec/ a statement
formalises; `Ready` is "configured and not faulted" (30_encoding.md R85, R88). -/

open Sys2Proof Sys2Proof.Machine Sys2Proof.Safety

/-! ## Encoding -/

/-- Decoding an encoded operation gives it back, with every operand at every value (30_encoding.md R81, R86). -/
def Obligations.DecodeEncodeAgree : Prop :=
  ∀ i : Instr, wellFormed i = true → decode (encode i) = .ok i

/-- A word is legal exactly when it has a row of the opcode map, the match and mask columns of R81; a legal word is
one command; every other word faults `ILLEGAL_COMMAND` and records its opcode field (30_encoding.md R84). -/
def Obligations.CommandWordLegality : Prop :=
  ∀ w : Word,
    (legalCommand w = true ↔ ∃ row ∈ ([
        (0x00000000, 0xFFFFFFFF), (0x08000000, 0xFE000000), (0x10000000, 0xFFFF0000), (0x18000000, 0xFFFFFFFF),
        (0x20000000, 0xFFFFFFFF), (0x28000000, 0xFFFF0000), (0x30000000, 0xFFFFFFFF), (0x38000000, 0xFFFFFFFF),
        (0x40000000, 0xFFFFFFFF), (0x48000000, 0xFFFFFFFF), (0x50000000, 0xFFFF00FF), (0x58000000, 0xFFFFFFFF),
        (0x60000000, 0xFFFFFF00), (0x68000000, 0xFFFFFFFF)] : List (Word × Word)), w &&& row.2 = row.1) ∧
    (legalCommand w = true → ∃ i : Instr, decode (.command w) = .ok i ∧
        ∀ j : Instr, encode j = .command w ↔ j = i) ∧
    (legalCommand w = false → (∀ j : Instr, encode j ≠ .command w) ∧
        ∀ (c : CycleIn) (s : State), c.cmd = some w → s.fault.faulted = false →
          commandStep c s = .next (faultedWith 0x0C (w.extractLsb' 27 5) s))

/-- An event word with a reserved code, or none, has no effect; bits [27:16] are never read, and `LEN` only for
`EV_RX_EOM` (30_encoding.md R87). -/
def Obligations.EventWordReading : Prop :=
  (∀ (c : CycleIn) (s : State),
    ((evField c.evWord).toNat < 2 ∨ 5 < (evField c.evWord).toNat) → eventStep c s = .next s) ∧
  (∀ (c : CycleIn) (w : Word) (s : State), evField w = evField c.evWord →
    (evField w = 2 → lenField w = lenField c.evWord) → eventStep { c with evWord := w } s = eventStep c s)

/-- The encoding examples of the spec (30_encoding.md R92). -/
def Obligations.EncodingExamples : Prop :=
  decode (.command 0x08040200) = .ok (.cfg 0 2 4 .identity) ∧
  decode (.command 0x08040302) = .ok (.cfg 2 3 4 .identity) ∧
  decode (.command 0x09040200) = .ok (.cfg 0 2 4 .eightTenB) ∧
  decode (.command 0x100003EF) = .ok (.stageWr 3 0xEF) ∧
  decode (.command 0x28000102) = .ok (.txqWr 1 0x02) ∧
  decode (.command 0x50000300) = .ok (.rxqRd 3) ∧
  decode (.command 0x6000000A) = .ok (.rdcsr 0x0A) ∧
  legalCommand 0x00000001 = false ∧ legalCommand 0x70000000 = false ∧
  legalCommand 0x0A000000 = false ∧ legalCommand 0x50000001 = false

/-! ## The cycle -/

/-- The step runs the operation a port presents: its input is taken from what the agents present, the requests of
the cycle before are dropped, and after the operation the chains shift and the `IRQ` pin takes its value
(60_exceptions.md R244, log 3). -/
def Obligations.StepRunsPresentedOperation : Prop :=
  ∀ (p : PortInput) (i : Instr) (a : Answers) (s : State), decode p = .ok i → Presents p a s →
    Machine.step s =
      andThen (exec i { s with inputs := s.inputs.tail, requests := [], answers := a }) fun t =>
        .next { syncShift t with irq := irqOf (syncShift t) }

/-- A cycle without `rst` runs the event, the tick and the command it presents in that order, each seeing the effects
of the one before (60_exceptions.md R244). -/
def Obligations.CycleRunsInOrder : Prop :=
  ∀ (c : CycleIn) (s : State), nextInput s = c → c.rst = false →
    ((evField c.evWord).toNat = 2 → c.rxBits.length = (lenField c.evWord).toNat) →
    (∀ w, c.cmd = some w → legalCommand w = true) →
    Machine.step s =
      andThen (runAll (presented c) { s with inputs := s.inputs.tail, requests := [] }) fun t =>
        .next { syncShift t with irq := irqOf (syncShift t) }

/-- A cycle with `rst` leaves every element at its reset value, whatever else it presents (70_reset_and_hazards.md
R270, 10_state.md R56). -/
def Obligations.ResetCycle : Prop :=
  ∀ s : State, (nextInput s).rst = true → ∃ t, Machine.step s = .next t ∧
    t.cfg = ⟨false, 0, 0, 0, .identity, 0, 0, 0, 0, 0, 0, 0, 0, 0⟩ ∧
    t.sched = ⟨.idle, 0, false⟩ ∧ t.timer = ⟨false, 0⟩ ∧ t.radio = ⟨false, false⟩ ∧
    (∀ k a, (memOf k t).read? a = none) ∧
    (t.txq.e = 0 ∧ t.txq.n = 0 ∧ t.txq.w = 0 ∧ t.txq.r = 0) ∧
    (t.rxq.e = 0 ∧ t.rxq.n = 0 ∧ t.rxq.w = 0 ∧ t.rxq.r = 0) ∧
    (∀ g ∈ t.txq.rsync ++ t.txq.wsync ++ t.rxq.rsync ++ t.rxq.wsync, g = 0) ∧
    t.txqReserved = false ∧ t.rxqOwned = false ∧ t.rxqOslot = 0 ∧ t.fault = ⟨false, 0, 0⟩ ∧
    (∀ c, t.cnt.get c = 0) ∧ t.rsp = ⟨false, 0⟩ ∧ t.irq = false ∧ t.requests = [] ∧ t.build = s.build

/-! ## Host commands -/

/-- `NOP` answers `(0, 0)` in every state and does nothing else (43_host.md R221). -/
def Obligations.NopAnswersZero : Prop :=
  encode .nop = .command 0x00000000 ∧ ∀ s : State, exec .nop s = .next (answered false 0 s)

/-- `STAGE_WR` stores one byte of the staging buffer, or faults `OFFSET_RANGE` (43_host.md R222). -/
def Obligations.StageWrStoresOneByte : Prop :=
  ∀ (off data : BitVec 8) (s : State), Inv s → Ready s →
    (off.toNat < s.cfg.plen.toNat → ∃ t, exec (.stageWr off data) s = .next t ∧
      t = { s with stage := t.stage, rsp := ⟨false, 0⟩ } ∧
      ∀ a, t.stage.read? a = if a = off.toNat then some data else s.stage.read? a) ∧
    (s.cfg.plen.toNat ≤ off.toNat → exec (.stageWr off data) s = .next (faultedWith 0x0A 2 s))

/-- `RDCSR` answers the CSR's word, or faults `ILLEGAL_CSR` at exactly the reserved addresses, and has no side effect
(43_host.md R223, 10_state.md R40). The 32 assigned addresses of R40's table, against the count of 29 in R53, are the
model's reading (log 14). -/
def Obligations.RdcsrAnswersTheWord : Prop :=
  ∀ (addr : BitVec 8) (s : State), s.fault.faulted = false →
    (csrValue addr s = none ↔
      addr.toNat ∈ [0x06, 0x07, 0x15, 0x16, 0x17] ∨ 0x25 ≤ addr.toNat) ∧
    (∀ v, csrValue addr s = some v → exec (.rdcsr addr) s = .next (answered false v s)) ∧
    (csrValue addr s = none → exec (.rdcsr addr) s = .next (faultedWith 0x0D 12 s))

/-- Where each field stands in the CSR words (10_state.md R41 to R51), at the 32 addresses of R40 (log 14). -/
def Obligations.CsrFieldLayout : Prop :=
  ∀ s : State,
    (csrValue 0x00 s = some 0x464D4143) ∧
    (∃ v, csrValue 0x01 s = some v ∧ v.extractLsb' 0 8 = s.build.payloadMax ∧ v.extractLsb' 8 8 = 3 ∧
      v.getLsbD 16 = decide (s.build.cdcMode = .gray) ∧ v.extractLsb' 17 7 = 0 ∧
      v.extractLsb' 24 4 = (if s.build.cdcMode = .gray then s.build.syncStages else 0) ∧
      v.extractLsb' 28 4 = 0) ∧
    (∃ v, csrValue 0x02 s = some v ∧ v.extractLsb' 0 16 = s.build.ringBytes ∧ v.extractLsb' 16 16 = 0) ∧
    (csrValue 0x03 s = some s.build.ticksPerBit) ∧ (csrValue 0x04 s = some s.build.turnaroundTicks) ∧
    (∃ v, csrValue 0x05 s = some v ∧ v.extractLsb' 0 24 = s.build.preamble ∧ v.extractLsb' 24 8 = 0) ∧
    (∃ v, csrValue 0x08 s = some v ∧ v.extractLsb' 0 8 = s.cfg.i ∧ v.extractLsb' 8 8 = s.cfg.n ∧
      v.extractLsb' 16 8 = s.cfg.plen ∧ v.getLsbD 24 = decide (s.cfg.codec = .eightTenB) ∧
      v.extractLsb' 25 6 = 0 ∧ v.getLsbD 31 = s.cfg.configured) ∧
    (∃ v, csrValue 0x09 s = some v ∧
      v.extractLsb' 0 2 = (match s.sched.state with | .idle => 0 | .sending => 1 | .waitGuard => 2) ∧
      v.getLsbD 2 = s.sched.valid ∧ v.getLsbD 3 = false ∧ v.extractLsb' 4 4 = s.sched.rep ∧
      v.getLsbD 8 = s.radio.radioTx ∧ v.getLsbD 9 = s.radio.rxRestore ∧ v.getLsbD 10 = s.timer.armed ∧
      v.getLsbD 11 = s.txqReserved ∧ v.getLsbD 12 = s.rxqOwned ∧ v.getLsbD 13 = irqOf s ∧
      v.extractLsb' 14 17 = 0 ∧ v.getLsbD 31 = s.fault.faulted) ∧
    (∃ v, csrValue 0x0A s = some v ∧ v.extractLsb' 0 8 = s.fault.cause ∧ v.extractLsb' 8 5 = s.fault.op ∧
      v.extractLsb' 13 19 = 0) ∧
    (∃ v, csrValue 0x0B s = some v ∧ v.extractLsb' 0 16 = s.cfg.txlen ∧ v.extractLsb' 16 16 = s.cfg.rxlen) ∧
    (csrValue 0x0C s = some s.cfg.delta) ∧
    (∃ v, csrValue 0x0D s = some v ∧ v.extractLsb' 0 8 = s.cfg.kI ∧ v.extractLsb' 8 8 = s.cfg.kMax ∧
      v.extractLsb' 16 16 = 0) ∧
    (csrValue 0x0E s = some s.cfg.guard) ∧ (csrValue 0x0F s = some s.timer.count) ∧
    (∃ v, csrValue 0x10 s = some v ∧ v.extractLsb' 0 16 = s.txq.w ∧ v.extractLsb' 16 16 = s.txq.r) ∧
    (∃ v, csrValue 0x11 s = some v ∧ (s.cfg.configured = false → v = 0) ∧ (s.cfg.configured = true →
      v.extractLsb' 0 16 = BitVec.ofNat 16 (countP s.build s.txq) ∧
      v.extractLsb' 16 16 = BitVec.ofNat 16 (s.txq.n.toNat - 1))) ∧
    (∃ v, csrValue 0x12 s = some v ∧ v.extractLsb' 0 16 = s.rxq.w ∧ v.extractLsb' 16 16 = s.rxq.r) ∧
    (∃ v, csrValue 0x13 s = some v ∧ (s.cfg.configured = false → v = 0) ∧ (s.cfg.configured = true →
      v.extractLsb' 0 16 = BitVec.ofNat 16 (countC s.build s.rxq) ∧
      v.extractLsb' 16 16 = BitVec.ofNat 16 (s.rxq.n.toNat - 1))) ∧
    (∃ v, csrValue 0x14 s = some v ∧ v.extractLsb' 0 16 = s.rxqOslot ∧ v.extractLsb' 16 15 = 0 ∧
      v.getLsbD 31 = s.rxqOwned) ∧
    (∀ p ∈ [(0x18, Counter.txSent), (0x19, .txKeyupFail), (0x1A, .txError), (0x1B, .rxModeFail), (0x1C, .txqFull),
        (0x1D, .txqEmptyPull), (0x1E, .rxqEmpty), (0x1F, .rxOk), (0x20, .rxCorrected), (0x21, .rxLinecodeFail),
        (0x22, .rxChecksumFail), (0x23, .rxEccFail), (0x24, .rxDropFull)],
      csrValue p.1 s = some (s.cnt.get p.2))

/-- `CLRCNT` clears every counter and changes no other state (43_host.md R224). -/
def Obligations.ClrcntClearsTheCounters : Prop :=
  ∀ s : State, s.fault.faulted = false → ∃ t, exec .clrcnt s = .next t ∧
    t = { s with cnt := t.cnt, rsp := ⟨false, 0⟩ } ∧ ∀ c, t.cnt.get c = 0

/-! ## CFG -/

/-- A `CFG` that passes its checks completes: Idle, the timer stopped, the rings' bits dropped, receive mode
requested, one empty pull counted, answer `(0, 0)`; nothing outside the configuration and the rings changes besides
(40_scheduler.md R111). -/
def Obligations.CfgCompletes : Prop :=
  ∀ (i n plen : BitVec 8) (codec : LineCode) (s : State), CfgAccepted s i n plen codec →
    ∃ t, exec (.cfg i n plen codec) s = .next t ∧
      t = { s with
        cfg := t.cfg, sched := ⟨.idle, 0, false⟩, timer := ⟨false, 0⟩,
        radio := if s.answers.rx then ⟨false, false⟩ else ⟨s.radio.radioTx, true⟩,
        txq := t.txq, txqReserved := false, rxq := t.rxq, rxqOwned := false, rxqOslot := 0,
        cnt := t.cnt, rsp := ⟨false, 0⟩, requests := s.requests ++ [.setMode .rx s.answers.rx] } ∧
      ∀ c, t.cnt.get c = s.cnt.get c +
        (if c = .txqEmptyPull ∨ (c = .rxModeFail ∧ s.answers.rx = false) then 1 else 0)

/-- What an accepted `CFG` writes to the configuration registers and the derived ones, each without truncation, and
the order of the waits they give (10_state.md R22, R23, 40_scheduler.md R100 to R102, 41_codec.md R142 to R145). -/
def Obligations.CfgDerivedRegisters : Prop :=
  ∀ (i n plen : BitVec 8) (codec : LineCode) (s : State), s.build.Valid → CfgAccepted s i n plen codec →
    ∃ t, exec (.cfg i n plen codec) s = .next t ∧
      t.cfg.configured = true ∧ t.cfg.i = i ∧ t.cfg.n = n ∧ t.cfg.plen = plen ∧ t.cfg.codec = codec ∧
      t.cfg.symbits.toNat = (match codec with | .identity => 8 | .eightTenB => 10) ∧
      t.cfg.frameBits.toNat = 24 + t.cfg.symbits.toNat * (plen.toNat + 4) + 8 ∧
      t.cfg.txlen.toNat = (t.cfg.frameBits.toNat + 7) / 8 ∧
      t.cfg.rxlen.toNat = t.cfg.symbits.toNat * (plen.toNat + 4) ∧
      t.cfg.crcL.toNat = plen.toNat + 4 ∧
      t.cfg.delta.toNat =
        t.cfg.txlen.toNat * 8 * s.build.ticksPerBit.toNat + 2 * s.build.turnaroundTicks.toNat ∧
      (i.toNat = 0 → t.cfg.kI = 2) ∧ (i.toNat = 1 → t.cfg.kI = 3) ∧ (i.toNat = 2 → t.cfg.kI = 5) ∧
      (n.toNat = 2 → t.cfg.kMax = 3) ∧ (n.toNat = 3 → t.cfg.kMax = 5) ∧
      t.cfg.guard.toNat = (t.cfg.kMax.toNat * (n.toNat - 1) + 1) * t.cfg.delta.toNat ∧
      t.cfg.kI.toNat * t.cfg.delta.toNat ≤ t.cfg.kMax.toNat * t.cfg.delta.toNat ∧
      t.cfg.kMax.toNat * t.cfg.delta.toNat < t.cfg.guard.toNat ∧
      8 ≤ t.cfg.delta.toNat

/-- An accepted `CFG` recreates both rings empty, with as many slots as the region holds, in a `GRAY` build rounded
down to a power of two; the regions keep their bytes (42_ring.md R180). -/
def Obligations.CfgCreatesTheRings : Prop :=
  ∀ (i n plen : BitVec 8) (codec : LineCode) (s : State), CfgAccepted s i n plen codec →
    ∃ t, exec (.cfg i n plen codec) s = .next t ∧
      t.txqReserved = false ∧ t.rxqOwned = false ∧ t.rxqOslot = 0 ∧
      t.txq.mem = s.txq.mem ∧ t.rxq.mem = s.rxq.mem ∧
      ∀ q ∈ [t.txq, t.rxq], q.e = plen ∧ q.w = 0 ∧ q.r = 0 ∧
        (s.build.cdcMode = .sync → q.n.toNat = s.build.ringBytes.toNat / plen.toNat) ∧
        (s.build.cdcMode = .gray → (∃ k, q.n.toNat = 2 ^ k) ∧
          q.n.toNat ≤ s.build.ringBytes.toNat / plen.toNat ∧
          s.build.ringBytes.toNat / plen.toNat < 2 * q.n.toNat ∧
          q.rsync = List.replicate s.build.syncStages.toNat 0 ∧
          q.wsync = List.replicate s.build.syncStages.toNat 0)

/-- The checks of `CFG` in their order; the first that applies is raised, and nothing else is written (40_scheduler.md
R111, 60_exceptions.md R240). -/
def Obligations.CfgFaultsInOrder : Prop :=
  ∀ (i n plen : BitVec 8) (codec : LineCode) (s : State), s.fault.faulted = false →
    (s.sched.state ≠ .idle → exec (.cfg i n plen codec) s = .next (faultedWith 0x06 1 s)) ∧
    (s.sched.state = .idle →
      (¬(n.toNat = 2 ∨ n.toNat = 3) → exec (.cfg i n plen codec) s = .next (faultedWith 0x02 1 s)) ∧
      (n.toNat = 2 ∨ n.toNat = 3 →
        (n.toNat ≤ i.toNat → exec (.cfg i n plen codec) s = .next (faultedWith 0x01 1 s)) ∧
        (i.toNat < n.toNat →
          (plen.toNat = 0 ∨ s.build.payloadMax.toNat < plen.toNat →
            exec (.cfg i n plen codec) s = .next (faultedWith 0x03 1 s)) ∧
          (1 ≤ plen.toNat → plen.toNat ≤ s.build.payloadMax.toNat →
            (s.build.ringBytes.toNat / plen.toNat < 2 →
              exec (.cfg i n plen codec) s = .next (faultedWith 0x04 1 s)) ∧
            (2 ≤ s.build.ringBytes.toNat / plen.toNat →
              2 ^ 32 - 1 < guardTicks s.build codec n.toNat plen.toNat →
              exec (.cfg i n plen codec) s = .next (faultedWith 0x05 1 s))))))

/-! ## SEND -/

/-- `SEND` from Idle starts a sequence on the staged payload and answers `(0, 0)`, whether or not the first key-up
succeeds (40_scheduler.md R112, R110, R107; a byte never staged is a draw, log 5). -/
def Obligations.SendStartsTheSequence : Prop :=
  ∀ s : State, Inv s → Ready s → s.sched.state = .idle →
    ∃ p t, Reads (stagedBytes s) p ∧ Started p s t ∧ exec .send s = .next (answered false 0 t)

/-- `SEND` outside Idle, or with a pending frame, is rejected: answer `(1, 0)`, nothing else (40_scheduler.md
R112). -/
def Obligations.SendRejected : Prop :=
  ∀ s : State, Ready s → s.sched.state ≠ .idle ∨ s.sched.valid = true →
    exec .send s = .next (answered true 0 s)

/-! ## TXQ -/

/-- `TXQ_RESERVE`: the double reserve faults, a full ring answers `(1, 0)` and is counted, and otherwise the slot at
the write cursor is reserved (42_ring.md R187). -/
def Obligations.TxqReserveTakesASlot : Prop :=
  ∀ s : State, Inv s → Ready s →
    (s.txqReserved = true → exec .txqReserve s = .next (faultedWith 0x08 4 s)) ∧
    (s.txqReserved = false →
      ((s.txq.w.toNat + 1) % s.txq.n.toNat = (readView s.build s.txq).toNat →
        exec .txqReserve s =
          .next { s with cnt := { s.cnt with txqFull := s.cnt.txqFull + 1 }, rsp := ⟨true, 0⟩ }) ∧
      ((s.txq.w.toNat + 1) % s.txq.n.toNat ≠ (readView s.build s.txq).toNat →
        exec .txqReserve s =
          .next { s with txqReserved := true, rsp := ⟨false, s.txq.w.setWidth 32⟩ }))

/-- `TXQ_WR` stores one byte at `TXQ.W * TXQ.E + OFF`, or faults (42_ring.md R188). -/
def Obligations.TxqWrStoresOneByte : Prop :=
  ∀ (off data : BitVec 8) (s : State), Inv s → Ready s →
    (s.txqReserved = false → exec (.txqWr off data) s = .next (faultedWith 0x09 5 s)) ∧
    (s.txqReserved = true →
      (s.txq.e.toNat ≤ off.toNat → exec (.txqWr off data) s = .next (faultedWith 0x0A 5 s)) ∧
      (off.toNat < s.txq.e.toNat → ∃ t, exec (.txqWr off data) s = .next t ∧
        t = { s with txq := { s.txq with mem := t.txq.mem }, rsp := ⟨false, 0⟩ } ∧
        ∀ a, t.txq.mem.read? a =
          if a = s.txq.w.toNat * s.txq.e.toNat + off.toNat then some data else s.txq.mem.read? a))

/-- `TXQ_COMMIT` ends the reservation and moves the write cursor on, modulo the slot count; without a reservation it
faults (42_ring.md R189). -/
def Obligations.TxqCommitPublishes : Prop :=
  ∀ s : State, Inv s → Ready s →
    (s.txqReserved = false → exec .txqCommit s = .next (faultedWith 0x09 6 s)) ∧
    (s.txqReserved = true → ∃ t, exec .txqCommit s = .next t ∧
      t = { s with txqReserved := false, txq := { s.txq with w := t.txq.w }, rsp := ⟨false, 0⟩ } ∧
      t.txq.w.toNat = (s.txq.w.toNat + 1) % s.txq.n.toNat)

/-- `TXQ_ABANDON` ends the reservation and changes neither cursor nor region; without a reservation it faults
(42_ring.md R190). -/
def Obligations.TxqAbandonEndsTheReservation : Prop :=
  encode .txqAbandon = .command 0x38000000 ∧
  ∀ s : State, Ready s →
    (s.txqReserved = false → exec .txqAbandon s = .next (faultedWith 0x09 7 s)) ∧
    (s.txqReserved = true →
      exec .txqAbandon s = .next { s with txqReserved := false, rsp := ⟨false, 0⟩ })

/-- `TXQ_COUNT` and `RXQ_COUNT` answer the host side's count, which lies below the slot count, and have no other
effect (42_ring.md R191, R196, R181). -/
def Obligations.RingCountsAnswered : Prop :=
  ∀ s : State, Inv s → Ready s →
    (∃ v : Word, exec .txqCount s = .next (answered false v s) ∧
      (v.toNat : Int) = (s.txq.w.toNat - (readView s.build s.txq).toNat : Int) % s.txq.n.toNat ∧
      v.toNat < s.txq.n.toNat) ∧
    (∃ v : Word, exec .rxqCount s = .next (answered false v s) ∧
      (v.toNat : Int) = ((writeView s.build s.rxq).toNat - s.rxq.r.toNat : Int) % s.rxq.n.toNat ∧
      v.toNat < s.rxq.n.toNat)

/-! ## RXQ -/

/-- `RXQ_POP` takes the oldest entry and owns its slot, or answers Empty, counts it and still ends the ownership
before it (42_ring.md R192). -/
def Obligations.RxqPopTakesTheOldest : Prop :=
  ∀ s : State, Inv s → Ready s →
    (writeView s.build s.rxq = s.rxq.r →
      exec .rxqPop s = .next { s with
        rxqOwned := false, cnt := { s.cnt with rxqEmpty := s.cnt.rxqEmpty + 1 }, rsp := ⟨true, 0⟩ }) ∧
    (writeView s.build s.rxq ≠ s.rxq.r → ∃ t, exec .rxqPop s = .next t ∧
      t = { s with
        rxq := { s.rxq with r := t.rxq.r }, rxqOwned := true, rxqOslot := s.rxq.r,
        rsp := ⟨false, s.rxq.r.setWidth 32⟩ } ∧
      t.rxq.r.toNat = (s.rxq.r.toNat + 1) % s.rxq.n.toNat)

/-- `RXQ_RD` answers the byte at `RXQ.OSLOT * RXQ.E + OFF`, which a delivery has written, and has no other effect;
or it faults (42_ring.md R193, R195). -/
def Obligations.RxqRdAnswersTheByte : Prop :=
  ∀ (off : BitVec 8) (s : State), Inv s → Ready s →
    (s.rxqOwned = false → exec (.rxqRd off) s = .next (faultedWith 0x0B 10 s)) ∧
    (s.rxqOwned = true →
      (s.rxq.e.toNat ≤ off.toNat → exec (.rxqRd off) s = .next (faultedWith 0x0A 10 s)) ∧
      (off.toNat < s.rxq.e.toNat → ∃ v : Byte,
        s.rxq.mem.read? (s.rxqOslot.toNat * s.rxq.e.toNat + off.toNat) = some v ∧
        exec (.rxqRd off) s = .next (answered false (v.setWidth 32) s)))

/-- A received frame that does not decode, or finds the ring full, is counted and dropped; and which bits decode:
`LinecodeFail` exactly on a broken symbol length, on too few bits, or on an invalid symbol among the first
`CFG_PLEN + 4`; on the others the residual of the message they carry decides, `ChecksumFail` exactly where it is not 0
and no flip of one message bit makes it 0 (41_codec.md R164, R159, R151, R156, R149, 42_ring.md R195). -/
def Obligations.ReceiveDropsAreCounted : Prop :=
  ∀ (len : BitVec 16) (bits : List Bool) (s : State), Ready s →
    (decodeFrame s.cfg bits = .linecodeFail → exec (.evRxEom len bits) s =
      .next { s with cnt := { s.cnt with rxLinecodeFail := s.cnt.rxLinecodeFail + 1 } }) ∧
    (decodeFrame s.cfg bits = .checksumFail → exec (.evRxEom len bits) s =
      .next { s with cnt := { s.cnt with rxChecksumFail := s.cnt.rxChecksumFail + 1 } }) ∧
    (∀ p, decodeFrame s.cfg bits = .ok p → fullP s.build s.rxq = true → exec (.evRxEom len bits) s =
      .next { s with cnt := { s.cnt with
        rxOk := s.cnt.rxOk + 1, rxDropFull := s.cnt.rxDropFull + 1 } }) ∧
    (∀ p, decodeFrame s.cfg bits = .okCorrected p → fullP s.build s.rxq = true → exec (.evRxEom len bits) s =
      .next { s with cnt := { s.cnt with
        rxCorrected := s.cnt.rxCorrected + 1, rxDropFull := s.cnt.rxDropFull + 1 } }) ∧
    (CfgLegal s.build s.cfg →
      (decodeFrame s.cfg bits = .linecodeFail ↔
        bits.length % s.cfg.symbits.toNat ≠ 0 ∨ bits.length < s.cfg.rxlen.toNat ∨
          ∃ j < s.cfg.plen.toNat + 4, ∀ b, ¬ Stands s.cfg.codec (symbolAt s.cfg bits j) b) ∧
      ∀ m : List Byte, Carries s.cfg bits m →
        (∀ p, decodeFrame s.cfg bits = .ok p ↔ checksum m = 0 ∧ p = m.take s.cfg.plen.toNat) ∧
        (decodeFrame s.cfg bits = .checksumFail ↔
          checksum m ≠ 0 ∧ ∀ k < 8 * m.length, checksum (flipBit m k) ≠ 0) ∧
        (∀ p, decodeFrame s.cfg bits = .okCorrected p ↔ checksum m ≠ 0 ∧ ∃ k < 8 * m.length,
          (∀ k' < k, checksum (flipBit m k') ≠ 0) ∧ checksum (flipBit m k) = 0 ∧
            p = (flipBit m k).take s.cfg.plen.toNat))

/-- A received frame that decodes is counted and stored whole in the slot at the write cursor, which moves on
(41_codec.md R164, 42_ring.md R195). -/
def Obligations.ReceiveDelivers : Prop :=
  ∀ (len : BitVec 16) (bits : List Bool) (p : List Byte) (s : State), Inv s → Ready s →
    decodeFrame s.cfg bits = .ok p ∨ decodeFrame s.cfg bits = .okCorrected p → fullP s.build s.rxq = false →
    ∃ t, exec (.evRxEom len bits) s = .next t ∧
      t = { s with rxq := { s.rxq with mem := t.rxq.mem, w := t.rxq.w }, cnt := t.cnt } ∧
      p.length = s.rxq.e.toNat ∧
      (∀ a, t.rxq.mem.read? a =
        if s.rxq.w.toNat * s.rxq.e.toNat ≤ a ∧ a < s.rxq.w.toNat * s.rxq.e.toNat + s.rxq.e.toNat
        then p[a - s.rxq.w.toNat * s.rxq.e.toNat]? else s.rxq.mem.read? a) ∧
      t.rxq.w.toNat = (s.rxq.w.toNat + 1) % s.rxq.n.toNat ∧
      ∀ c, t.cnt.get c = s.cnt.get c +
        if c = (if decodeFrame s.cfg bits = .ok p then .rxOk else .rxCorrected) then 1 else 0

/-! ## Transceiver events and the tick -/

/-- `EV_TX_EMPTY` returns to receive mode, `EV_TX_ERROR` is counted and does the same, `EV_TX_READY` has no effect
(40_scheduler.md R113 to R116). -/
def Obligations.TransceiverEvents : Prop :=
  ∀ s : State, Ready s →
    exec .evTxEmpty s = .next (restored s) ∧
    exec .evTxReady s = .next s ∧
    exec .evTxError s =
      .next (restored { s with cnt := { s.cnt with txError := s.cnt.txError + 1 } })

/-- A tick that expires nothing: a pending return to receive mode is retried, and an armed timer counts down by one
(40_scheduler.md R104). -/
def Obligations.TickCountsDown : Prop :=
  ∀ s : State, Ready s →
    (s.timer.armed = false → exec .tick s = .next (afterRetry s)) ∧
    (s.timer.armed = true → 2 ≤ s.timer.count.toNat → ∃ t, exec .tick s = .next t ∧
      t = { afterRetry s with timer := ⟨true, t.timer.count⟩ } ∧
      t.timer.count.toNat = s.timer.count.toNat - 1)

/-- An expiry in Sending with repetitions left arms the next period and keys up: the frame in `FRAME_BUF` is sent
and counted, or the failure is counted and `REP` stays (40_scheduler.md R107). -/
def Obligations.TickRepeatsTheFrame : Prop :=
  ∀ s : State, Inv s → Ready s → s.timer.armed = true → s.timer.count.toNat = 1 → s.sched.state = .sending →
    s.sched.rep.toNat < s.cfg.n.toNat →
    ∃ (bytes : List Byte) (t : State), exec .tick s = .next t ∧
      Reads ((List.range s.cfg.txlen.toNat).map s.frameBuf.read?) bytes ∧
      t.timer.count.toNat = s.cfg.kI.toNat * s.cfg.delta.toNat ∧
      (s.answers.tx = false → t = { afterRetry s with
        timer := ⟨true, t.timer.count⟩,
        cnt := { (afterRetry s).cnt with txKeyupFail := s.cnt.txKeyupFail + 1 },
        requests := (afterRetry s).requests ++ [.setMode .tx false] }) ∧
      (s.answers.tx = true → t = { afterRetry s with
        timer := ⟨true, t.timer.count⟩,
        sched := ⟨.sending, t.sched.rep, true⟩,
        radio := ⟨true, false⟩,
        cnt := { (afterRetry s).cnt with txSent := s.cnt.txSent + 1 },
        requests := (afterRetry s).requests ++
          [.setMode .tx true, .writeFrame ((bitString bytes).take s.cfg.frameBits.toNat)],
        draws := t.draws } ∧ t.sched.rep.toNat = s.sched.rep.toNat + 1)

/-- An expiry in Sending after the last repetition invalidates the pending frame and arms the guard; the guard's
expiry with nothing queued returns to Idle and counts the empty pull (40_scheduler.md R106, R108, R109). -/
def Obligations.TickEndsTheSequence : Prop :=
  ∀ s : State, Inv s → Ready s → s.timer.armed = true → s.timer.count.toNat = 1 →
    (s.sched.state = .sending → s.sched.rep.toNat = s.cfg.n.toNat →
      exec .tick s = .next { afterRetry s with
        sched := ⟨.waitGuard, s.sched.rep, false⟩, timer := ⟨true, s.cfg.guard⟩ }) ∧
    (s.sched.state = .waitGuard → countC s.build s.txq = 0 →
      exec .tick s = .next { afterRetry s with
        sched := ⟨.idle, 0, false⟩, timer := ⟨false, 0⟩,
        cnt := { (afterRetry s).cnt with txqEmptyPull := s.cnt.txqEmptyPull + 1 } })

/-- The guard's expiry with an entry queued pulls the oldest and starts to send it (40_scheduler.md R108 to R110,
42_ring.md R194). -/
def Obligations.TickPullsTheOldestEntry : Prop :=
  ∀ s : State, Inv s → Ready s → s.timer.armed = true → s.timer.count.toNat = 1 → s.sched.state = .waitGuard →
    countC s.build s.txq ≠ 0 →
    ∃ (p : List Byte) (r : BitVec 16) (t : State), exec .tick s = .next t ∧
      Reads (slotBytes s.txq s.txq.r.toNat) p ∧ r.toNat = (s.txq.r.toNat + 1) % s.txq.n.toNat ∧
      Started p { afterRetry s with txq := { s.txq with r := r } } t

/-! ## Faults -/

/-- Entering the fault state is precise: whichever command faults, nothing but the fault registers, the timer and the
response changes; events and ticks never fault (60_exceptions.md R241). -/
def Obligations.FaultEntryIsPrecise : Prop :=
  ∀ (i : Instr) (s t : State), exec i s = .next t → s.fault.faulted = false → t.fault.faulted = true →
    ∃ (op : Opcode) (c : Cause), opcodeOfInstr i = some op ∧ t = faultedWith (causeCode c) (opcodeCode op) s

/-- What each command word is answered in the fault state; nothing else changes (60_exceptions.md R242). -/
def Obligations.FaultStateAnswers : Prop :=
  ∀ (c : CycleIn) (w : Word) (s : State), s.fault.faulted = true → c.cmd = some w →
    ∃ t, commandStep c s = .next t ∧ t = { s with rsp := t.rsp, answers := t.answers } ∧
      (w = 0x00000000 → t.rsp = ⟨false, 0⟩) ∧
      (∀ v, w &&& 0xFFFFFF00 = 0x60000000 → csrValue (w.extractLsb' 0 8) s = some v → t.rsp = ⟨false, v⟩) ∧
      (w ≠ 0x00000000 → ¬(w &&& 0xFFFFFF00 = 0x60000000 ∧ (csrValue (w.extractLsb' 0 8) s).isSome = true) →
        t.rsp = ⟨true, 0⟩)

/-- The fault state is sticky: whatever the agents present without `rst`, a cycle changes only the response, the
pins, and in a `GRAY` build the chains; a cycle with `rst` leaves the fault state (60_exceptions.md R243, R242). -/
def Obligations.FaultIsSticky : Prop :=
  ∀ s t : State, Machine.step s = .next t → s.fault.faulted = true →
    ((nextInput s).rst = false →
      t = { s with
        txq := { s.txq with rsync := t.txq.rsync, wsync := t.txq.wsync },
        rxq := { s.rxq with rsync := t.rxq.rsync, wsync := t.rxq.wsync },
        rsp := t.rsp, irq := true, requests := [], answers := t.answers, inputs := t.inputs, draws := t.draws } ∧
      (s.build.cdcMode = .sync → t.txq = s.txq ∧ t.rxq = s.rxq)) ∧
    ((nextInput s).rst = true → t.fault.faulted = false)

/-- Before the first `CFG` every command but `NOP`, `CFG`, `RDCSR` and `CLRCNT` faults `NOT_CONFIGURED`
(30_encoding.md R85 step 3). -/
def Obligations.UnconfiguredCommandsFault : Prop :=
  ∀ (i : Instr) (op : Opcode) (s : State), opcodeOfInstr i = some op →
    op ≠ .nop → op ≠ .cfg → op ≠ .rdcsr → op ≠ .clrcnt →
    s.fault.faulted = false → s.cfg.configured = false →
    exec i s = .next (faultedWith 0x07 (opcodeCode op) s)

/-- An event or tick while unconfigured or faulted has no effect (30_encoding.md R88). -/
def Obligations.EventsAndTicksGated : Prop :=
  ∀ (i : Instr) (s : State), opcodeOfInstr i = none → s.cfg.configured = false ∨ s.fault.faulted = true →
    exec i s = .next s

/-! ## Which operation writes what -/

/-- Only a successful `CFG` writes a configuration register, and no operation changes the build (10_state.md R22,
R23, R55). -/
def Obligations.OnlyCfgConfigures : Prop :=
  ∀ (i : Instr) (s t : State), exec i s = .next t →
    t.build = s.build ∧
    (t.cfg ≠ s.cfg → t.fault.faulted = false ∧ ∃ ident n plen codec, i = .cfg ident n plen codec)

/-- The roles of the rings: which operation writes which ring register, `CFG` apart (42_ring.md R197). -/
def Obligations.RingRoles : Prop :=
  ∀ (i : Instr) (s t : State), (∀ ident n plen codec, i ≠ .cfg ident n plen codec) → exec i s = .next t →
    (t.txq.w ≠ s.txq.w → i = .txqCommit) ∧
    (t.txqReserved ≠ s.txqReserved → i = .txqReserve ∨ i = .txqCommit ∨ i = .txqAbandon) ∧
    (t.txq.mem ≠ s.txq.mem → ∃ off data, i = .txqWr off data) ∧
    (t.txq.r ≠ s.txq.r → i = .tick) ∧
    (t.rxq.w ≠ s.rxq.w → ∃ len bits, i = .evRxEom len bits) ∧
    (t.rxq.mem ≠ s.rxq.mem → ∃ len bits, i = .evRxEom len bits) ∧
    (t.rxq.r ≠ s.rxq.r → i = .rxqPop) ∧
    (t.rxqOwned ≠ s.rxqOwned → i = .rxqPop) ∧
    (t.rxqOslot ≠ s.rxqOslot → i = .rxqPop) ∧
    t.txq = { s.txq with mem := t.txq.mem, w := t.txq.w, r := t.txq.r } ∧
    t.rxq = { s.rxq with mem := t.rxq.mem, w := t.rxq.w, r := t.rxq.r }

/-- `FRAME_BUF` is never overwritten while `STATE` is Sending or WaitGuard (20_memory.md R74). -/
def Obligations.FrameBufferLifetime : Prop :=
  ∀ (i : Instr) (s t : State), Inv s → exec i s = .next t →
    (s.sched.state = .sending → t.frameBuf = s.frameBuf) ∧
    (s.sched.state = .waitGuard → t.sched.state = .waitGuard → t.frameBuf = s.frameBuf)

/-- While the host owns an entry, no operation but the next pop or a `CFG` changes a byte of it or lets go of it
(20_memory.md R76). -/
def Obligations.OwnedSlotIsProtected : Prop :=
  ∀ (i : Instr) (s t : State), Inv s → s.rxqOwned = true → i ≠ .rxqPop →
    (∀ ident n plen codec, i ≠ .cfg ident n plen codec) → exec i s = .next t →
    t.rxqOwned = true ∧ t.rxqOslot = s.rxqOslot ∧
      slotBytes t.rxq t.rxqOslot.toNat = slotBytes s.rxq s.rxqOslot.toNat

/-- The `IRQ` pin at the end of every cycle (60_exceptions.md R246). -/
def Obligations.IrqPinFollowsTheState : Prop :=
  ∀ s t : State, Machine.step s = .next t →
    (t.irq = true ↔ t.fault.faulted = true ∨ (t.cfg.configured = true ∧ 0 < countC t.build t.rxq))

/-! ## Invariants -/

/-- The state after reset has the invariant, in every legal build and whatever the agents will present. -/
def Obligations.ResetHasInvariant : Prop :=
  Inv State.reset ∧
  ∀ (b : Config.Build) (l : List CycleIn), b.Valid → Inv { State.resetOf b with inputs := l }

/-- Every cycle keeps the invariant, from every state that has it and whatever the agents present: memories in
canonical form inside their bounds, legal configuration, ring, scheduler and fault invariants, and every byte the host
can come to read through RXQ written (42_ring.md R195, R198, R202, 40_scheduler.md R117). -/
def Obligations.StepKeepsInvariant : Prop :=
  ∀ s t : State, Inv s → Machine.step s = .next t → Inv t

/-- From every state with the invariant the core completes its cycle, whatever the agents present: the model never
stops on it. -/
def Obligations.InvariantStepsComplete : Prop :=
  ∀ s : State, Inv s → ∃ t, Machine.step s = .next t

/-- The scheduler invariants after every cycle that does not end in the fault state (40_scheduler.md R117). -/
def Obligations.SchedulerInvariants : Prop :=
  ∀ s t : State, Inv s → Machine.step s = .next t → t.fault.faulted = false →
    (t.sched.state = .idle ∨ t.sched.state = .sending ∨ t.sched.state = .waitGuard) ∧
    (t.sched.valid = true ↔ t.sched.state = .sending) ∧
    (t.timer.armed = true ↔ (t.sched.state = .sending ∨ t.sched.state = .waitGuard)) ∧
    (t.sched.rep.toNat ≤ t.cfg.n.toNat ∧ (t.sched.state = .idle → t.sched.rep = 0) ∧
      (t.sched.state = .waitGuard → t.sched.rep.toNat = t.cfg.n.toNat)) ∧
    (t.timer.count.toNat ≤ t.cfg.guard.toNat ∧ (t.timer.armed = false → t.timer.count = 0)) ∧
    (t.cfg.configured = false → t.sched.state = .idle ∧ t.sched.rep = 0 ∧ t.sched.valid = false ∧
      t.timer.armed = false)

/-- The ring invariants in every state with the invariant; in a `SYNC` build full is exactly "count equals capacity"
and empty exactly "count is 0" (42_ring.md R198, R183). -/
def Obligations.RingInvariants : Prop :=
  ∀ s : State, Inv s → s.cfg.configured = true →
    (∀ q ∈ [s.txq, s.rxq],
      q.w.toNat < q.n.toNat ∧ q.r.toNat < q.n.toNat ∧ ringCount q ≤ capacity q ∧
      countC s.build q ≤ ringCount q ∧ ringCount q ≤ countP s.build q ∧
      (s.build.cdcMode = .sync → (fullP s.build q = true ↔ ringCount q = capacity q) ∧
        (emptyC s.build q = true ↔ ringCount q = 0))) ∧
    (s.txqReserved = true → (s.txq.w.toNat + 1) % s.txq.n.toNat ≠ s.txq.r.toNat) ∧
    (s.rxqOwned = true →
      (s.rxqOslot.toNat : Int) = (s.rxq.r.toNat - 1 : Int) % s.rxq.n.toNat)

/-- TXQ is a queue: an operation but `CFG` takes at most the oldest entry, only the scheduler's tick takes one, and
only a `TXQ_COMMIT` adds one, the reserved slot's bytes, at the end (42_ring.md R184). -/
def Obligations.TxqIsAQueue : Prop :=
  ∀ (i : Instr) (s t : State), Inv s → s.cfg.configured = true →
    (∀ ident n plen codec, i ≠ .cfg ident n plen codec) → exec i s = .next t →
    ∃ taken added : List (List (Option Byte)),
      entries s.txq ++ added = taken ++ entries t.txq ∧ taken.length ≤ 1 ∧
      (taken ≠ [] → i = .tick) ∧
      (added = if i = .txqCommit ∧ s.txqReserved = true ∧ s.fault.faulted = false
        then [slotBytes s.txq s.txq.w.toNat] else [])

/-- RXQ is a queue: an operation but `CFG` takes at most the oldest entry, only an `RXQ_POP` that does not answer
Empty takes one and then owns it, and only a received frame adds one, its payload, at the end (42_ring.md R184). -/
def Obligations.RxqIsAQueue : Prop :=
  ∀ (i : Instr) (s t : State), Inv s → s.cfg.configured = true →
    (∀ ident n plen codec, i ≠ .cfg ident n plen codec) → exec i s = .next t →
    ∃ taken added : List (List (Option Byte)),
      entries s.rxq ++ added = taken ++ entries t.rxq ∧
      (taken = if i = .rxqPop ∧ emptyC s.build s.rxq = false ∧ s.fault.faulted = false
        then [slotBytes t.rxq t.rxqOslot.toNat] else []) ∧
      (added ≠ [] → ∃ len bits p, i = .evRxEom len bits ∧ added = [p.map some] ∧
        (decodeFrame s.cfg bits = .ok p ∨ decodeFrame s.cfg bits = .okCorrected p))

/-! ## Codec -/

/-- A message followed by its own checksum has residual 0, and the CRC is affine (41_codec.md R147). -/
def Obligations.ZeroResidual : Prop :=
  (∀ p : List Byte, checksum (p ++ be32 (checksum p)) = 0) ∧
  (∀ a e : List Byte, a.length = e.length →
    checksum (List.zipWith (· ^^^ ·) a e) = checksum a ^^^ crc0 e)

/-- `EccFail` cannot occur under a legal configuration (41_codec.md R160). -/
def Obligations.EccFailCannotOccur : Prop :=
  ∀ (b : Config.Build) (c : CfgRegs) (bits : List Bool), CfgLegal b c → decodeFrame c bits ≠ .eccFail

/-- Decoding the line-coded region of a frame gives its payload back, in both line codes; bits beyond it are not
decoded (41_codec.md R162, R159). -/
def Obligations.CodecRoundTrip : Prop :=
  ∀ (b : Config.Build) (c : CfgRegs) (p : List Byte) (rest : List Bool), CfgLegal b c →
    p.length = c.plen.toNat → rest.length % c.symbits.toNat = 0 →
    decodeFrame c (lineEncode c.codec (p ++ be32 (checksum p)) ++ rest) = .ok p

/-- With the identity code, one inverted bit anywhere in the received region is corrected (41_codec.md R161). -/
def Obligations.SingleFlipIsCorrected : Prop :=
  ∀ (b : Config.Build) (c : CfgRegs) (p : List Byte) (k : Nat), CfgLegal b c → c.codec = .identity →
    p.length = c.plen.toNat → k < c.rxlen.toNat →
    decodeFrame c ((bitString (p ++ be32 (checksum p))).modify k not) = .okCorrected p

/-- The spec's CRC check values (41_codec.md R148). -/
def Obligations.CrcCheckValues : Prop :=
  checksum [0x31, 0x32, 0x33, 0x34, 0x35, 0x36, 0x37, 0x38, 0x39] = 0x0376E6E7 ∧
  checksum [] = 0xFFFFFFFF ∧ checksum [0xDE, 0xAD, 0xBE, 0xEF] = 0x81DA1A18 ∧
  checksum [0x00] = 0x4E08BFB4 ∧ checksum [0x00, 0x00, 0x00, 0x00] = 0xC704DD7B ∧
  checksum [0xFF, 0xFF, 0xFF, 0xFF] = 0x00000000 ∧ checksum [0x01, 0x02, 0x03, 0x04] = 0x793737CD ∧
  checksum [0x48, 0x45, 0x4C, 0x4C, 0x4F] = 0x8CD7CDBA

/-- Every 8b10b symbol is the code of its `x` and then of its `y` in the columns of the running disparity, as the
tables print them, has ten bits, keeps the disparity in step with its ones, and decodes to its byte from either
disparity; a byte sequence is coded symbol by symbol from RD- (41_codec.md R153 to R155). A ten-bit symbol decodes to
a byte exactly where the tables have it, and to none exactly where it holds one of the invalid codes (R156). The
examples of R157. -/
def Obligations.EightTenBSymbols : Prop :=
  (∀ (rd : Disparity) (b : Byte),
    (encodeSymbol rd b).1 = bitsOf (sixOf rd b) ++ bitsOf (fourOf (rdAfter rd (sixOf rd b)) b) ∧
    (encodeSymbol rd b).1.length = 10 ∧
    decodeSymbol (encodeSymbol rd b).1 = some b ∧
    ((encodeSymbol rd b).1.count true = 5 ∧ (encodeSymbol rd b).2 = rd ∨
      (encodeSymbol rd b).1.count true = (match rd with | .neg => 6 | .pos => 4) ∧
        (encodeSymbol rd b).2 = rd.flip)) ∧
  (lineEncode .eightTenB [] = [] ∧ ∀ (m : List Byte) (b : Byte), lineEncode .eightTenB (m ++ [b]) =
    lineEncode .eightTenB m ++ (encodeSymbol (m.foldl (fun rd b => (encodeSymbol rd b).2) .neg) b).1) ∧
  (∀ (symbol : List Bool) (b : Byte), symbol.length = 10 →
    (decodeSymbol symbol = some b ↔ Stands .eightTenB symbol b)) ∧
  (∀ v : BitVec 10, decodeSymbol (bitsOf v) = none ↔
    v.extractLsb' 4 6 ∈ ([0b000000, 0b000001, 0b000010, 0b000011, 0b000100, 0b001000, 0b001111, 0b010000, 0b011111,
        0b100000, 0b101111, 0b110000, 0b110111, 0b111011, 0b111100, 0b111101, 0b111110, 0b111111] : List (BitVec 6)) ∨
      v.extractLsb' 0 4 ∈ ([0b0000, 0b1111] : List (BitVec 4))) ∧
  (∀ row ∈ ([
      (0x00, .neg, 0b1001110100, .neg), (0x00, .pos, 0b0110001011, .pos), (0xBC, .neg, 0b0011101010, .neg),
      (0xF1, .neg, 0b1000110111, .pos), (0xF1, .pos, 0b1000110001, .neg), (0xEB, .pos, 0b1101001000, .neg),
      (0xEB, .neg, 0b1101001110, .pos), (0xFF, .neg, 0b1010110001, .neg), (0xDE, .neg, 0b0111100110, .pos),
      (0x4A, .neg, 0b0101010101, .neg), (0x07, .neg, 0b1110001011, .pos), (0x07, .pos, 0b0001110100, .neg),
      (0x83, .neg, 0b1100011101, .pos)] : List (Byte × Disparity × BitVec 10 × Disparity)),
    encodeSymbol row.2.1 row.1 = (bitsOf row.2.2.1, row.2.2.2))

/-- The frame is preamble, line-coded message and eight zero bits, of the declared bit and byte lengths; the identity
code is the message's bits (41_codec.md R141, R143 to R145, R151). -/
def Obligations.FrameLengthsAgree : Prop :=
  ∀ (pre : BitVec 24) (codec : LineCode) (p : List Byte),
    let symbits := match codec with
      | .identity => 8
      | .eightTenB => 10
    frame pre codec p =
      bitsOf pre ++ lineEncode codec (p ++ be32 (checksum p)) ++ List.replicate 8 false ∧
    lineEncode .identity (p ++ be32 (checksum p)) = bitString (p ++ be32 (checksum p)) ∧
    (lineEncode codec (p ++ be32 (checksum p))).length = symbits * (p.length + 4) ∧
    (frame pre codec p).length = 24 + symbits * (p.length + 4) + 8 ∧
    (pack (frame pre codec p)).length = ((frame pre codec p).length + 7) / 8 ∧
    (bitString (pack (frame pre codec p))).take (frame pre codec p).length = frame pre codec p

/-! ## Timing -/

/-- A wait of `T` ticks expires on the `T`-th tick: the ones before only count down, the last one dispatches with the
timer stopped (40_scheduler.md R104). -/
def Obligations.WaitExpiresOnTheLastTick : Prop :=
  ∀ (s : State) (k : Nat), Ready s → s.timer.armed = true → s.radio.rxRestore = false →
    (k < s.timer.count.toNat →
      ticks k s = .next { s with timer := ⟨true, s.timer.count - BitVec.ofNat 32 k⟩ }) ∧
    (1 ≤ s.timer.count.toNat → k = s.timer.count.toNat →
      ticks k s = dispatch { s with timer := ⟨false, 0⟩ })

/-- The timing of a whole sequence started by `SEND` while every key-up succeeds: the transmissions, all of the same
frame, are `K_I * DELTA` ticks apart from tick 0 on; WaitGuard begins one period after the last, and the guard ends
in Idle when nothing is queued (40_scheduler.md R118). -/
def Obligations.SequenceTiming : Prop :=
  ∀ s : State, Inv s → Ready s → s.sched.state = .idle → s.answers.tx = true → s.requests = [] →
    ∃ (f : List Bool) (u : State), exec .send s = .next u ∧
      (∀ k, k < s.cfg.n.toNat * (s.cfg.kI.toNat * s.cfg.delta.toNat) + s.cfg.guard.toNat →
        ∃ t, ticks k u = .next t ∧
          t.requests = repetitions
            (1 + min (k / (s.cfg.kI.toNat * s.cfg.delta.toNat)) (s.cfg.n.toNat - 1)) f ∧
          t.sched.state =
            (if k < s.cfg.n.toNat * (s.cfg.kI.toNat * s.cfg.delta.toNat) then .sending else .waitGuard)) ∧
      (countC s.build s.txq = 0 →
        ∃ t, ticks (s.cfg.n.toNat * (s.cfg.kI.toNat * s.cfg.delta.toNat) + s.cfg.guard.toNat) u = .next t ∧
          t.requests = repetitions s.cfg.n.toNat f ∧ t.sched = ⟨.idle, 0, false⟩ ∧ t.timer = ⟨false, 0⟩ ∧
          t.cnt.txqEmptyPull = s.cnt.txqEmptyPull + 1)

/-! ## The GRAY build -/

/-- The Gray code and its inverse, and that neighbouring slots of a power-of-two ring, the wrap included, differ in
exactly one bit (42_ring.md R201). -/
def Obligations.GrayCode : Prop :=
  (∀ v : BitVec 16, grayToBin (binToGray v) = v ∧ binToGray (grayToBin v) = v) ∧
  (∀ v : BitVec 16, (grayToBin v).getLsbD 15 = v.getLsbD 15 ∧
    ∀ k < 15, (grayToBin v).getLsbD k = ((grayToBin v).getLsbD (k + 1) ^^ v.getLsbD k)) ∧
  (∀ k v : Nat, 1 ≤ k → k ≤ 15 → v < 2 ^ k → ∃ j < 16,
    binToGray (BitVec.ofNat 16 v) ^^^ binToGray (BitVec.ofNat 16 ((v + 1) % 2 ^ k)) =
      BitVec.twoPow 16 j)

/-- In a `GRAY` build a cursor reaches the other side's view after `SYNC_STAGES` shifts and never earlier: after fewer
the view is what the chain held that many registers before its end. Both counts are exact again after `SYNC_STAGES`
shifts in which no cursor moved (42_ring.md R200, R202). -/
def Obligations.ViewsCatchUp : Prop :=
  ∀ s : State, s.build.Valid → s.build.cdcMode = .gray →
    s.txq.rsync.length = s.build.syncStages.toNat → s.txq.wsync.length = s.build.syncStages.toNat →
    s.rxq.rsync.length = s.build.syncStages.toNat → s.rxq.wsync.length = s.build.syncStages.toNat →
    (∀ k < s.build.syncStages.toNat,
      let t := syncShift^[k] s
      let held := fun chain : List (BitVec 16) => (chain[s.build.syncStages.toNat - 1 - k]?).map grayToBin
      some (readView s.build t.txq) = held s.txq.rsync ∧ some (writeView s.build t.txq) = held s.txq.wsync ∧
      some (readView s.build t.rxq) = held s.rxq.rsync ∧ some (writeView s.build t.rxq) = held s.rxq.wsync) ∧
    let t := syncShift^[s.build.syncStages.toNat] s
    readView s.build t.txq = s.txq.r ∧ writeView s.build t.txq = s.txq.w ∧
    readView s.build t.rxq = s.rxq.r ∧ writeView s.build t.rxq = s.rxq.w ∧
    countP s.build t.txq = ringCount s.txq ∧ countC s.build t.txq = ringCount s.txq ∧
    countP s.build t.rxq = ringCount s.rxq ∧ countC s.build t.rxq = ringCount s.rxq
end

