-- ==== Sys2Proof/Laws/Memory.lean ====
section
/-! SUPPORT. The laws of the memories: read after write, a write leaves every other byte alone, and every memory
operation keeps the canonical form and the bound of the listed addresses. -/

namespace Sys2Proof.Machine

variable {m : Memory}

/-! ## Read after write -/

/-- Reading after one byte was written: that byte, or what the address read before. -/
theorem Memory.read?_write (m : Memory) (a x : Nat) (v : Byte) :
    (Memory.write m a v).read? x = if x = a then some v else m.read? x := by
  induction m with
  | nil => simp [Memory.write, Memory.read?, eq_comm]
  | cons c m ih =>
    obtain ⟨b, u⟩ := c
    unfold Memory.write
    split
    · simp only [Memory.read?]; grind
    · split
      · simp only [Memory.read?]; grind
      · simp only [Memory.read?, ih]; grind

/-- Reading after bytes were written from `base` on. -/
theorem Memory.read?_writeBytes (bs : List Byte) :
    ∀ (m : Memory) (base x : Nat), (Memory.writeBytes m base bs).read? x =
      if base ≤ x ∧ x < base + bs.length then bs[x - base]? else m.read? x := by
  induction bs with
  | nil => intro m base x; simp [Memory.writeBytes]
  | cons v vs ih =>
    intro m base x
    simp only [Memory.writeBytes, ih, Memory.read?_write, List.length_cons]
    rcases Nat.lt_trichotomy x base with h | h | h
    · simp only [show ¬(base + 1 ≤ x ∧ x < base + 1 + vs.length) by omega,
        show ¬(base ≤ x ∧ x < base + (vs.length + 1)) by omega, show x ≠ base by omega, if_false]
    · subst h
      simp
    · obtain ⟨d, rfl⟩ : ∃ d, x = base + 1 + d := ⟨x - (base + 1), by omega⟩
      simp only [show base + 1 ≤ base + 1 + d by omega, show base ≤ base + 1 + d by omega, true_and,
        show base + 1 + d ≠ base by omega, if_false,
        show base + 1 + d - (base + 1) = d by omega, show base + 1 + d - base = d + 1 by omega]
      split <;> split <;> first | omega | simp

/-! ## The canonical form is kept -/

/-- The canonical form, one entry at a time. -/
theorem Memory.wf_cons (a : Nat) (u : Byte) (m : Memory) :
    Memory.wf ((a, u) :: m) = true ↔ (∀ c ∈ m.head?, a < c.1) ∧ Memory.wf m = true := by
  cases m with
  | nil => simp [Memory.wf]
  | cons c m => obtain ⟨b, v⟩ := c; simp [Memory.wf]

/-- One written byte keeps the form. -/
theorem Memory.wf_write (h : Memory.wf m = true) (x : Nat) (v : Byte) :
    Memory.wf (Memory.write m x v) = true := by
  induction m with
  | nil => rfl
  | cons c m ih =>
    obtain ⟨a, u⟩ := c
    obtain ⟨hlt, hm⟩ := (Memory.wf_cons a u m).1 h
    unfold Memory.write
    split
    next hx => exact (Memory.wf_cons _ _ _).2 ⟨by simpa using hx, h⟩
    next hx =>
      split
      next he => subst he; exact (Memory.wf_cons _ _ _).2 ⟨hlt, hm⟩
      next he =>
        refine (Memory.wf_cons _ _ _).2 ⟨?_, ih hm⟩
        cases m with
        | nil => simp [Memory.write]; omega
        | cons c m =>
          obtain ⟨b, w⟩ := c
          have := hlt (b, w) (by simp)
          unfold Memory.write
          split
          · simp; omega
          · split <;> simp_all

/-- Written bytes keep the form. -/
theorem Memory.wf_writeBytes (bs : List Byte) :
    ∀ (m : Memory) (base : Nat), Memory.wf m = true → Memory.wf (Memory.writeBytes m base bs) = true := by
  induction bs with
  | nil => intro m base h; exact h
  | cons v vs ih => intro m base h; exact ih _ _ (Memory.wf_write h base v)

/-- One written byte below a bound keeps the listed addresses below it. -/
theorem Memory.below_write {size x : Nat} {v : Byte} (h : Memory.below size m = true) (hx : x < size) :
    Memory.below size (Memory.write m x v) = true := by
  unfold Memory.below at *
  induction m with
  | nil => simpa [Memory.write] using hx
  | cons c m ih =>
    obtain ⟨a, u⟩ := c
    unfold Memory.write
    simp only [List.all_cons, Bool.and_eq_true, decide_eq_true_eq] at h
    split
    · simp [h.1, hx]; simpa using h.2
    · split
      · simp [hx]; simpa using h.2
      · simp only [List.all_cons, Bool.and_eq_true, decide_eq_true_eq]
        exact ⟨h.1, ih h.2⟩

/-- Written bytes below a bound keep the listed addresses below it. -/
theorem Memory.below_writeBytes {size : Nat} (bs : List Byte) :
    ∀ (m : Memory) (base : Nat), Memory.below size m = true → base + bs.length ≤ size →
      Memory.below size (Memory.writeBytes m base bs) = true := by
  induction bs with
  | nil => intro m base h _; exact h
  | cons v vs ih =>
    intro m base h hb
    simp only [List.length_cons] at hb
    exact ih _ _ (Memory.below_write h (by omega)) (by omega)

/-! ## Reading bytes -/

/-- As many bytes are read as are asked for. -/
@[simp] theorem Memory.readBytes_length (m : Memory) :
    ∀ (n x k : Nat), (Memory.readBytes m x n k).1.length = n := by
  intro n
  induction n with
  | zero => intro x k; rfl
  | succ n ih => intro x k; unfold Memory.readBytes; split <;> simp [ih]

/-- A byte that was written is read as itself. -/
theorem Memory.readBytes_written (m : Memory) :
    ∀ (n x k j : Nat) (u : Byte), j < n → m.read? (x + j) = some u →
      (Memory.readBytes m x n k).1[j]? = some u := by
  intro n
  induction n with
  | zero => intro x k j u hj; omega
  | succ n ih =>
    intro x k j u hj hu
    cases j with
    | zero => unfold Memory.readBytes; simp only [Nat.add_zero] at hu; simp [hu]
    | succ j =>
      have hu' : m.read? (x + 1 + j) = some u := by rw [← hu]; congr 1; omega
      unfold Memory.readBytes
      split
      · simpa using ih (x + 1) k j u (by omega) hu'
      · simpa using ih (x + 1) (k + 1) j u (by omega) hu'

/-- Where every byte was written, no draw is taken. -/
theorem Memory.readBytes_draws (m : Memory) :
    ∀ (n x k : Nat), (∀ j < n, (m.read? (x + j)).isSome) → (Memory.readBytes m x n k).2 = k := by
  intro n
  induction n with
  | zero => intro x k _; rfl
  | succ n ih =>
    intro x k h
    have h0 := h 0 (by omega)
    unfold Memory.readBytes
    split
    · exact ih (x + 1) k fun j hj => by
        have := h (j + 1) (by omega)
        rwa [show x + (j + 1) = x + 1 + j by omega] at this
    · next hn => simp [hn] at h0

/-- Where every byte was written, the bytes read are those. -/
theorem Memory.readBytes_eq (m : Memory) (n x k : Nat) (p : List Byte) (hlen : p.length = n)
    (h : ∀ j < n, m.read? (x + j) = p[j]?) : Memory.readBytes m x n k = (p, k) := by
  refine Prod.ext ?_ (Memory.readBytes_draws m n x k fun j hj => by
    rw [h j hj]; simp [hlen, hj])
  refine List.ext_getElem? fun j => ?_
  by_cases hj : j < n
  · have hp : p[j]? = some p[j] := by simp [hlen, hj]
    rw [hp]
    exact Memory.readBytes_written m n x k j _ hj (by rw [h j hj, hp])
  · rw [List.getElem?_eq_none (by simp; omega), List.getElem?_eq_none (show p.length ≤ j by omega)]

end Sys2Proof.Machine
end

