-- ==== Sys2Proof/Laws/State.lean ====
section
/-! SUPPORT. What each writer of Machine/Ops.lean does to each field of State: one lemma per field per update, all
true by rfl, so that no proof unfolds a record update. -/

namespace Sys2Proof.Machine

section
variable (s : State)

@[simp] theorem setCfg_build (v : CfgRegs) : (setCfg v s).build = s.build := rfl
@[simp] theorem setCfg_cfg (v : CfgRegs) : (setCfg v s).cfg = v := rfl
@[simp] theorem setCfg_sched (v : CfgRegs) : (setCfg v s).sched = s.sched := rfl
@[simp] theorem setCfg_timer (v : CfgRegs) : (setCfg v s).timer = s.timer := rfl
@[simp] theorem setCfg_radio (v : CfgRegs) : (setCfg v s).radio = s.radio := rfl
@[simp] theorem setCfg_frameBuf (v : CfgRegs) : (setCfg v s).frameBuf = s.frameBuf := rfl
@[simp] theorem setCfg_stage (v : CfgRegs) : (setCfg v s).stage = s.stage := rfl
@[simp] theorem setCfg_txq (v : CfgRegs) : (setCfg v s).txq = s.txq := rfl
@[simp] theorem setCfg_txqReserved (v : CfgRegs) : (setCfg v s).txqReserved = s.txqReserved := rfl
@[simp] theorem setCfg_rxq (v : CfgRegs) : (setCfg v s).rxq = s.rxq := rfl
@[simp] theorem setCfg_rxqOwned (v : CfgRegs) : (setCfg v s).rxqOwned = s.rxqOwned := rfl
@[simp] theorem setCfg_rxqOslot (v : CfgRegs) : (setCfg v s).rxqOslot = s.rxqOslot := rfl
@[simp] theorem setCfg_fault (v : CfgRegs) : (setCfg v s).fault = s.fault := rfl
@[simp] theorem setCfg_cnt (v : CfgRegs) : (setCfg v s).cnt = s.cnt := rfl
@[simp] theorem setCfg_rsp (v : CfgRegs) : (setCfg v s).rsp = s.rsp := rfl
@[simp] theorem setCfg_irq (v : CfgRegs) : (setCfg v s).irq = s.irq := rfl
@[simp] theorem setCfg_requests (v : CfgRegs) : (setCfg v s).requests = s.requests := rfl
@[simp] theorem setCfg_answers (v : CfgRegs) : (setCfg v s).answers = s.answers := rfl
@[simp] theorem setCfg_inputs (v : CfgRegs) : (setCfg v s).inputs = s.inputs := rfl
@[simp] theorem setCfg_draws (v : CfgRegs) : (setCfg v s).draws = s.draws := rfl

@[simp] theorem setSched_build (v : SchedRegs) : (setSched v s).build = s.build := rfl
@[simp] theorem setSched_cfg (v : SchedRegs) : (setSched v s).cfg = s.cfg := rfl
@[simp] theorem setSched_sched (v : SchedRegs) : (setSched v s).sched = v := rfl
@[simp] theorem setSched_timer (v : SchedRegs) : (setSched v s).timer = s.timer := rfl
@[simp] theorem setSched_radio (v : SchedRegs) : (setSched v s).radio = s.radio := rfl
@[simp] theorem setSched_frameBuf (v : SchedRegs) : (setSched v s).frameBuf = s.frameBuf := rfl
@[simp] theorem setSched_stage (v : SchedRegs) : (setSched v s).stage = s.stage := rfl
@[simp] theorem setSched_txq (v : SchedRegs) : (setSched v s).txq = s.txq := rfl
@[simp] theorem setSched_txqReserved (v : SchedRegs) : (setSched v s).txqReserved = s.txqReserved := rfl
@[simp] theorem setSched_rxq (v : SchedRegs) : (setSched v s).rxq = s.rxq := rfl
@[simp] theorem setSched_rxqOwned (v : SchedRegs) : (setSched v s).rxqOwned = s.rxqOwned := rfl
@[simp] theorem setSched_rxqOslot (v : SchedRegs) : (setSched v s).rxqOslot = s.rxqOslot := rfl
@[simp] theorem setSched_fault (v : SchedRegs) : (setSched v s).fault = s.fault := rfl
@[simp] theorem setSched_cnt (v : SchedRegs) : (setSched v s).cnt = s.cnt := rfl
@[simp] theorem setSched_rsp (v : SchedRegs) : (setSched v s).rsp = s.rsp := rfl
@[simp] theorem setSched_irq (v : SchedRegs) : (setSched v s).irq = s.irq := rfl
@[simp] theorem setSched_requests (v : SchedRegs) : (setSched v s).requests = s.requests := rfl
@[simp] theorem setSched_answers (v : SchedRegs) : (setSched v s).answers = s.answers := rfl
@[simp] theorem setSched_inputs (v : SchedRegs) : (setSched v s).inputs = s.inputs := rfl
@[simp] theorem setSched_draws (v : SchedRegs) : (setSched v s).draws = s.draws := rfl

@[simp] theorem setTimer_build (v : TimerRegs) : (setTimer v s).build = s.build := rfl
@[simp] theorem setTimer_cfg (v : TimerRegs) : (setTimer v s).cfg = s.cfg := rfl
@[simp] theorem setTimer_sched (v : TimerRegs) : (setTimer v s).sched = s.sched := rfl
@[simp] theorem setTimer_timer (v : TimerRegs) : (setTimer v s).timer = v := rfl
@[simp] theorem setTimer_radio (v : TimerRegs) : (setTimer v s).radio = s.radio := rfl
@[simp] theorem setTimer_frameBuf (v : TimerRegs) : (setTimer v s).frameBuf = s.frameBuf := rfl
@[simp] theorem setTimer_stage (v : TimerRegs) : (setTimer v s).stage = s.stage := rfl
@[simp] theorem setTimer_txq (v : TimerRegs) : (setTimer v s).txq = s.txq := rfl
@[simp] theorem setTimer_txqReserved (v : TimerRegs) : (setTimer v s).txqReserved = s.txqReserved := rfl
@[simp] theorem setTimer_rxq (v : TimerRegs) : (setTimer v s).rxq = s.rxq := rfl
@[simp] theorem setTimer_rxqOwned (v : TimerRegs) : (setTimer v s).rxqOwned = s.rxqOwned := rfl
@[simp] theorem setTimer_rxqOslot (v : TimerRegs) : (setTimer v s).rxqOslot = s.rxqOslot := rfl
@[simp] theorem setTimer_fault (v : TimerRegs) : (setTimer v s).fault = s.fault := rfl
@[simp] theorem setTimer_cnt (v : TimerRegs) : (setTimer v s).cnt = s.cnt := rfl
@[simp] theorem setTimer_rsp (v : TimerRegs) : (setTimer v s).rsp = s.rsp := rfl
@[simp] theorem setTimer_irq (v : TimerRegs) : (setTimer v s).irq = s.irq := rfl
@[simp] theorem setTimer_requests (v : TimerRegs) : (setTimer v s).requests = s.requests := rfl
@[simp] theorem setTimer_answers (v : TimerRegs) : (setTimer v s).answers = s.answers := rfl
@[simp] theorem setTimer_inputs (v : TimerRegs) : (setTimer v s).inputs = s.inputs := rfl
@[simp] theorem setTimer_draws (v : TimerRegs) : (setTimer v s).draws = s.draws := rfl

@[simp] theorem setRadio_build (v : RadioRegs) : (setRadio v s).build = s.build := rfl
@[simp] theorem setRadio_cfg (v : RadioRegs) : (setRadio v s).cfg = s.cfg := rfl
@[simp] theorem setRadio_sched (v : RadioRegs) : (setRadio v s).sched = s.sched := rfl
@[simp] theorem setRadio_timer (v : RadioRegs) : (setRadio v s).timer = s.timer := rfl
@[simp] theorem setRadio_radio (v : RadioRegs) : (setRadio v s).radio = v := rfl
@[simp] theorem setRadio_frameBuf (v : RadioRegs) : (setRadio v s).frameBuf = s.frameBuf := rfl
@[simp] theorem setRadio_stage (v : RadioRegs) : (setRadio v s).stage = s.stage := rfl
@[simp] theorem setRadio_txq (v : RadioRegs) : (setRadio v s).txq = s.txq := rfl
@[simp] theorem setRadio_txqReserved (v : RadioRegs) : (setRadio v s).txqReserved = s.txqReserved := rfl
@[simp] theorem setRadio_rxq (v : RadioRegs) : (setRadio v s).rxq = s.rxq := rfl
@[simp] theorem setRadio_rxqOwned (v : RadioRegs) : (setRadio v s).rxqOwned = s.rxqOwned := rfl
@[simp] theorem setRadio_rxqOslot (v : RadioRegs) : (setRadio v s).rxqOslot = s.rxqOslot := rfl
@[simp] theorem setRadio_fault (v : RadioRegs) : (setRadio v s).fault = s.fault := rfl
@[simp] theorem setRadio_cnt (v : RadioRegs) : (setRadio v s).cnt = s.cnt := rfl
@[simp] theorem setRadio_rsp (v : RadioRegs) : (setRadio v s).rsp = s.rsp := rfl
@[simp] theorem setRadio_irq (v : RadioRegs) : (setRadio v s).irq = s.irq := rfl
@[simp] theorem setRadio_requests (v : RadioRegs) : (setRadio v s).requests = s.requests := rfl
@[simp] theorem setRadio_answers (v : RadioRegs) : (setRadio v s).answers = s.answers := rfl
@[simp] theorem setRadio_inputs (v : RadioRegs) : (setRadio v s).inputs = s.inputs := rfl
@[simp] theorem setRadio_draws (v : RadioRegs) : (setRadio v s).draws = s.draws := rfl

@[simp] theorem setFrameBuf_build (v : Memory) : (setFrameBuf v s).build = s.build := rfl
@[simp] theorem setFrameBuf_cfg (v : Memory) : (setFrameBuf v s).cfg = s.cfg := rfl
@[simp] theorem setFrameBuf_sched (v : Memory) : (setFrameBuf v s).sched = s.sched := rfl
@[simp] theorem setFrameBuf_timer (v : Memory) : (setFrameBuf v s).timer = s.timer := rfl
@[simp] theorem setFrameBuf_radio (v : Memory) : (setFrameBuf v s).radio = s.radio := rfl
@[simp] theorem setFrameBuf_frameBuf (v : Memory) : (setFrameBuf v s).frameBuf = v := rfl
@[simp] theorem setFrameBuf_stage (v : Memory) : (setFrameBuf v s).stage = s.stage := rfl
@[simp] theorem setFrameBuf_txq (v : Memory) : (setFrameBuf v s).txq = s.txq := rfl
@[simp] theorem setFrameBuf_txqReserved (v : Memory) : (setFrameBuf v s).txqReserved = s.txqReserved := rfl
@[simp] theorem setFrameBuf_rxq (v : Memory) : (setFrameBuf v s).rxq = s.rxq := rfl
@[simp] theorem setFrameBuf_rxqOwned (v : Memory) : (setFrameBuf v s).rxqOwned = s.rxqOwned := rfl
@[simp] theorem setFrameBuf_rxqOslot (v : Memory) : (setFrameBuf v s).rxqOslot = s.rxqOslot := rfl
@[simp] theorem setFrameBuf_fault (v : Memory) : (setFrameBuf v s).fault = s.fault := rfl
@[simp] theorem setFrameBuf_cnt (v : Memory) : (setFrameBuf v s).cnt = s.cnt := rfl
@[simp] theorem setFrameBuf_rsp (v : Memory) : (setFrameBuf v s).rsp = s.rsp := rfl
@[simp] theorem setFrameBuf_irq (v : Memory) : (setFrameBuf v s).irq = s.irq := rfl
@[simp] theorem setFrameBuf_requests (v : Memory) : (setFrameBuf v s).requests = s.requests := rfl
@[simp] theorem setFrameBuf_answers (v : Memory) : (setFrameBuf v s).answers = s.answers := rfl
@[simp] theorem setFrameBuf_inputs (v : Memory) : (setFrameBuf v s).inputs = s.inputs := rfl
@[simp] theorem setFrameBuf_draws (v : Memory) : (setFrameBuf v s).draws = s.draws := rfl

@[simp] theorem setStage_build (v : Memory) : (setStage v s).build = s.build := rfl
@[simp] theorem setStage_cfg (v : Memory) : (setStage v s).cfg = s.cfg := rfl
@[simp] theorem setStage_sched (v : Memory) : (setStage v s).sched = s.sched := rfl
@[simp] theorem setStage_timer (v : Memory) : (setStage v s).timer = s.timer := rfl
@[simp] theorem setStage_radio (v : Memory) : (setStage v s).radio = s.radio := rfl
@[simp] theorem setStage_frameBuf (v : Memory) : (setStage v s).frameBuf = s.frameBuf := rfl
@[simp] theorem setStage_stage (v : Memory) : (setStage v s).stage = v := rfl
@[simp] theorem setStage_txq (v : Memory) : (setStage v s).txq = s.txq := rfl
@[simp] theorem setStage_txqReserved (v : Memory) : (setStage v s).txqReserved = s.txqReserved := rfl
@[simp] theorem setStage_rxq (v : Memory) : (setStage v s).rxq = s.rxq := rfl
@[simp] theorem setStage_rxqOwned (v : Memory) : (setStage v s).rxqOwned = s.rxqOwned := rfl
@[simp] theorem setStage_rxqOslot (v : Memory) : (setStage v s).rxqOslot = s.rxqOslot := rfl
@[simp] theorem setStage_fault (v : Memory) : (setStage v s).fault = s.fault := rfl
@[simp] theorem setStage_cnt (v : Memory) : (setStage v s).cnt = s.cnt := rfl
@[simp] theorem setStage_rsp (v : Memory) : (setStage v s).rsp = s.rsp := rfl
@[simp] theorem setStage_irq (v : Memory) : (setStage v s).irq = s.irq := rfl
@[simp] theorem setStage_requests (v : Memory) : (setStage v s).requests = s.requests := rfl
@[simp] theorem setStage_answers (v : Memory) : (setStage v s).answers = s.answers := rfl
@[simp] theorem setStage_inputs (v : Memory) : (setStage v s).inputs = s.inputs := rfl
@[simp] theorem setStage_draws (v : Memory) : (setStage v s).draws = s.draws := rfl

@[simp] theorem setTxq_build (v : Ring) : (setTxq v s).build = s.build := rfl
@[simp] theorem setTxq_cfg (v : Ring) : (setTxq v s).cfg = s.cfg := rfl
@[simp] theorem setTxq_sched (v : Ring) : (setTxq v s).sched = s.sched := rfl
@[simp] theorem setTxq_timer (v : Ring) : (setTxq v s).timer = s.timer := rfl
@[simp] theorem setTxq_radio (v : Ring) : (setTxq v s).radio = s.radio := rfl
@[simp] theorem setTxq_frameBuf (v : Ring) : (setTxq v s).frameBuf = s.frameBuf := rfl
@[simp] theorem setTxq_stage (v : Ring) : (setTxq v s).stage = s.stage := rfl
@[simp] theorem setTxq_txq (v : Ring) : (setTxq v s).txq = v := rfl
@[simp] theorem setTxq_txqReserved (v : Ring) : (setTxq v s).txqReserved = s.txqReserved := rfl
@[simp] theorem setTxq_rxq (v : Ring) : (setTxq v s).rxq = s.rxq := rfl
@[simp] theorem setTxq_rxqOwned (v : Ring) : (setTxq v s).rxqOwned = s.rxqOwned := rfl
@[simp] theorem setTxq_rxqOslot (v : Ring) : (setTxq v s).rxqOslot = s.rxqOslot := rfl
@[simp] theorem setTxq_fault (v : Ring) : (setTxq v s).fault = s.fault := rfl
@[simp] theorem setTxq_cnt (v : Ring) : (setTxq v s).cnt = s.cnt := rfl
@[simp] theorem setTxq_rsp (v : Ring) : (setTxq v s).rsp = s.rsp := rfl
@[simp] theorem setTxq_irq (v : Ring) : (setTxq v s).irq = s.irq := rfl
@[simp] theorem setTxq_requests (v : Ring) : (setTxq v s).requests = s.requests := rfl
@[simp] theorem setTxq_answers (v : Ring) : (setTxq v s).answers = s.answers := rfl
@[simp] theorem setTxq_inputs (v : Ring) : (setTxq v s).inputs = s.inputs := rfl
@[simp] theorem setTxq_draws (v : Ring) : (setTxq v s).draws = s.draws := rfl

@[simp] theorem setTxqReserved_build (v : Bool) : (setTxqReserved v s).build = s.build := rfl
@[simp] theorem setTxqReserved_cfg (v : Bool) : (setTxqReserved v s).cfg = s.cfg := rfl
@[simp] theorem setTxqReserved_sched (v : Bool) : (setTxqReserved v s).sched = s.sched := rfl
@[simp] theorem setTxqReserved_timer (v : Bool) : (setTxqReserved v s).timer = s.timer := rfl
@[simp] theorem setTxqReserved_radio (v : Bool) : (setTxqReserved v s).radio = s.radio := rfl
@[simp] theorem setTxqReserved_frameBuf (v : Bool) : (setTxqReserved v s).frameBuf = s.frameBuf := rfl
@[simp] theorem setTxqReserved_stage (v : Bool) : (setTxqReserved v s).stage = s.stage := rfl
@[simp] theorem setTxqReserved_txq (v : Bool) : (setTxqReserved v s).txq = s.txq := rfl
@[simp] theorem setTxqReserved_txqReserved (v : Bool) : (setTxqReserved v s).txqReserved = v := rfl
@[simp] theorem setTxqReserved_rxq (v : Bool) : (setTxqReserved v s).rxq = s.rxq := rfl
@[simp] theorem setTxqReserved_rxqOwned (v : Bool) : (setTxqReserved v s).rxqOwned = s.rxqOwned := rfl
@[simp] theorem setTxqReserved_rxqOslot (v : Bool) : (setTxqReserved v s).rxqOslot = s.rxqOslot := rfl
@[simp] theorem setTxqReserved_fault (v : Bool) : (setTxqReserved v s).fault = s.fault := rfl
@[simp] theorem setTxqReserved_cnt (v : Bool) : (setTxqReserved v s).cnt = s.cnt := rfl
@[simp] theorem setTxqReserved_rsp (v : Bool) : (setTxqReserved v s).rsp = s.rsp := rfl
@[simp] theorem setTxqReserved_irq (v : Bool) : (setTxqReserved v s).irq = s.irq := rfl
@[simp] theorem setTxqReserved_requests (v : Bool) : (setTxqReserved v s).requests = s.requests := rfl
@[simp] theorem setTxqReserved_answers (v : Bool) : (setTxqReserved v s).answers = s.answers := rfl
@[simp] theorem setTxqReserved_inputs (v : Bool) : (setTxqReserved v s).inputs = s.inputs := rfl
@[simp] theorem setTxqReserved_draws (v : Bool) : (setTxqReserved v s).draws = s.draws := rfl

@[simp] theorem setRxq_build (v : Ring) : (setRxq v s).build = s.build := rfl
@[simp] theorem setRxq_cfg (v : Ring) : (setRxq v s).cfg = s.cfg := rfl
@[simp] theorem setRxq_sched (v : Ring) : (setRxq v s).sched = s.sched := rfl
@[simp] theorem setRxq_timer (v : Ring) : (setRxq v s).timer = s.timer := rfl
@[simp] theorem setRxq_radio (v : Ring) : (setRxq v s).radio = s.radio := rfl
@[simp] theorem setRxq_frameBuf (v : Ring) : (setRxq v s).frameBuf = s.frameBuf := rfl
@[simp] theorem setRxq_stage (v : Ring) : (setRxq v s).stage = s.stage := rfl
@[simp] theorem setRxq_txq (v : Ring) : (setRxq v s).txq = s.txq := rfl
@[simp] theorem setRxq_txqReserved (v : Ring) : (setRxq v s).txqReserved = s.txqReserved := rfl
@[simp] theorem setRxq_rxq (v : Ring) : (setRxq v s).rxq = v := rfl
@[simp] theorem setRxq_rxqOwned (v : Ring) : (setRxq v s).rxqOwned = s.rxqOwned := rfl
@[simp] theorem setRxq_rxqOslot (v : Ring) : (setRxq v s).rxqOslot = s.rxqOslot := rfl
@[simp] theorem setRxq_fault (v : Ring) : (setRxq v s).fault = s.fault := rfl
@[simp] theorem setRxq_cnt (v : Ring) : (setRxq v s).cnt = s.cnt := rfl
@[simp] theorem setRxq_rsp (v : Ring) : (setRxq v s).rsp = s.rsp := rfl
@[simp] theorem setRxq_irq (v : Ring) : (setRxq v s).irq = s.irq := rfl
@[simp] theorem setRxq_requests (v : Ring) : (setRxq v s).requests = s.requests := rfl
@[simp] theorem setRxq_answers (v : Ring) : (setRxq v s).answers = s.answers := rfl
@[simp] theorem setRxq_inputs (v : Ring) : (setRxq v s).inputs = s.inputs := rfl
@[simp] theorem setRxq_draws (v : Ring) : (setRxq v s).draws = s.draws := rfl

@[simp] theorem setRxqOwned_build (v : Bool) : (setRxqOwned v s).build = s.build := rfl
@[simp] theorem setRxqOwned_cfg (v : Bool) : (setRxqOwned v s).cfg = s.cfg := rfl
@[simp] theorem setRxqOwned_sched (v : Bool) : (setRxqOwned v s).sched = s.sched := rfl
@[simp] theorem setRxqOwned_timer (v : Bool) : (setRxqOwned v s).timer = s.timer := rfl
@[simp] theorem setRxqOwned_radio (v : Bool) : (setRxqOwned v s).radio = s.radio := rfl
@[simp] theorem setRxqOwned_frameBuf (v : Bool) : (setRxqOwned v s).frameBuf = s.frameBuf := rfl
@[simp] theorem setRxqOwned_stage (v : Bool) : (setRxqOwned v s).stage = s.stage := rfl
@[simp] theorem setRxqOwned_txq (v : Bool) : (setRxqOwned v s).txq = s.txq := rfl
@[simp] theorem setRxqOwned_txqReserved (v : Bool) : (setRxqOwned v s).txqReserved = s.txqReserved := rfl
@[simp] theorem setRxqOwned_rxq (v : Bool) : (setRxqOwned v s).rxq = s.rxq := rfl
@[simp] theorem setRxqOwned_rxqOwned (v : Bool) : (setRxqOwned v s).rxqOwned = v := rfl
@[simp] theorem setRxqOwned_rxqOslot (v : Bool) : (setRxqOwned v s).rxqOslot = s.rxqOslot := rfl
@[simp] theorem setRxqOwned_fault (v : Bool) : (setRxqOwned v s).fault = s.fault := rfl
@[simp] theorem setRxqOwned_cnt (v : Bool) : (setRxqOwned v s).cnt = s.cnt := rfl
@[simp] theorem setRxqOwned_rsp (v : Bool) : (setRxqOwned v s).rsp = s.rsp := rfl
@[simp] theorem setRxqOwned_irq (v : Bool) : (setRxqOwned v s).irq = s.irq := rfl
@[simp] theorem setRxqOwned_requests (v : Bool) : (setRxqOwned v s).requests = s.requests := rfl
@[simp] theorem setRxqOwned_answers (v : Bool) : (setRxqOwned v s).answers = s.answers := rfl
@[simp] theorem setRxqOwned_inputs (v : Bool) : (setRxqOwned v s).inputs = s.inputs := rfl
@[simp] theorem setRxqOwned_draws (v : Bool) : (setRxqOwned v s).draws = s.draws := rfl

@[simp] theorem setRxqOslot_build (v : BitVec 16) : (setRxqOslot v s).build = s.build := rfl
@[simp] theorem setRxqOslot_cfg (v : BitVec 16) : (setRxqOslot v s).cfg = s.cfg := rfl
@[simp] theorem setRxqOslot_sched (v : BitVec 16) : (setRxqOslot v s).sched = s.sched := rfl
@[simp] theorem setRxqOslot_timer (v : BitVec 16) : (setRxqOslot v s).timer = s.timer := rfl
@[simp] theorem setRxqOslot_radio (v : BitVec 16) : (setRxqOslot v s).radio = s.radio := rfl
@[simp] theorem setRxqOslot_frameBuf (v : BitVec 16) : (setRxqOslot v s).frameBuf = s.frameBuf := rfl
@[simp] theorem setRxqOslot_stage (v : BitVec 16) : (setRxqOslot v s).stage = s.stage := rfl
@[simp] theorem setRxqOslot_txq (v : BitVec 16) : (setRxqOslot v s).txq = s.txq := rfl
@[simp] theorem setRxqOslot_txqReserved (v : BitVec 16) : (setRxqOslot v s).txqReserved = s.txqReserved := rfl
@[simp] theorem setRxqOslot_rxq (v : BitVec 16) : (setRxqOslot v s).rxq = s.rxq := rfl
@[simp] theorem setRxqOslot_rxqOwned (v : BitVec 16) : (setRxqOslot v s).rxqOwned = s.rxqOwned := rfl
@[simp] theorem setRxqOslot_rxqOslot (v : BitVec 16) : (setRxqOslot v s).rxqOslot = v := rfl
@[simp] theorem setRxqOslot_fault (v : BitVec 16) : (setRxqOslot v s).fault = s.fault := rfl
@[simp] theorem setRxqOslot_cnt (v : BitVec 16) : (setRxqOslot v s).cnt = s.cnt := rfl
@[simp] theorem setRxqOslot_rsp (v : BitVec 16) : (setRxqOslot v s).rsp = s.rsp := rfl
@[simp] theorem setRxqOslot_irq (v : BitVec 16) : (setRxqOslot v s).irq = s.irq := rfl
@[simp] theorem setRxqOslot_requests (v : BitVec 16) : (setRxqOslot v s).requests = s.requests := rfl
@[simp] theorem setRxqOslot_answers (v : BitVec 16) : (setRxqOslot v s).answers = s.answers := rfl
@[simp] theorem setRxqOslot_inputs (v : BitVec 16) : (setRxqOslot v s).inputs = s.inputs := rfl
@[simp] theorem setRxqOslot_draws (v : BitVec 16) : (setRxqOslot v s).draws = s.draws := rfl

@[simp] theorem setFault_build (v : FaultRegs) : (setFault v s).build = s.build := rfl
@[simp] theorem setFault_cfg (v : FaultRegs) : (setFault v s).cfg = s.cfg := rfl
@[simp] theorem setFault_sched (v : FaultRegs) : (setFault v s).sched = s.sched := rfl
@[simp] theorem setFault_timer (v : FaultRegs) : (setFault v s).timer = s.timer := rfl
@[simp] theorem setFault_radio (v : FaultRegs) : (setFault v s).radio = s.radio := rfl
@[simp] theorem setFault_frameBuf (v : FaultRegs) : (setFault v s).frameBuf = s.frameBuf := rfl
@[simp] theorem setFault_stage (v : FaultRegs) : (setFault v s).stage = s.stage := rfl
@[simp] theorem setFault_txq (v : FaultRegs) : (setFault v s).txq = s.txq := rfl
@[simp] theorem setFault_txqReserved (v : FaultRegs) : (setFault v s).txqReserved = s.txqReserved := rfl
@[simp] theorem setFault_rxq (v : FaultRegs) : (setFault v s).rxq = s.rxq := rfl
@[simp] theorem setFault_rxqOwned (v : FaultRegs) : (setFault v s).rxqOwned = s.rxqOwned := rfl
@[simp] theorem setFault_rxqOslot (v : FaultRegs) : (setFault v s).rxqOslot = s.rxqOslot := rfl
@[simp] theorem setFault_fault (v : FaultRegs) : (setFault v s).fault = v := rfl
@[simp] theorem setFault_cnt (v : FaultRegs) : (setFault v s).cnt = s.cnt := rfl
@[simp] theorem setFault_rsp (v : FaultRegs) : (setFault v s).rsp = s.rsp := rfl
@[simp] theorem setFault_irq (v : FaultRegs) : (setFault v s).irq = s.irq := rfl
@[simp] theorem setFault_requests (v : FaultRegs) : (setFault v s).requests = s.requests := rfl
@[simp] theorem setFault_answers (v : FaultRegs) : (setFault v s).answers = s.answers := rfl
@[simp] theorem setFault_inputs (v : FaultRegs) : (setFault v s).inputs = s.inputs := rfl
@[simp] theorem setFault_draws (v : FaultRegs) : (setFault v s).draws = s.draws := rfl

@[simp] theorem setCnt_build (v : Counters) : (setCnt v s).build = s.build := rfl
@[simp] theorem setCnt_cfg (v : Counters) : (setCnt v s).cfg = s.cfg := rfl
@[simp] theorem setCnt_sched (v : Counters) : (setCnt v s).sched = s.sched := rfl
@[simp] theorem setCnt_timer (v : Counters) : (setCnt v s).timer = s.timer := rfl
@[simp] theorem setCnt_radio (v : Counters) : (setCnt v s).radio = s.radio := rfl
@[simp] theorem setCnt_frameBuf (v : Counters) : (setCnt v s).frameBuf = s.frameBuf := rfl
@[simp] theorem setCnt_stage (v : Counters) : (setCnt v s).stage = s.stage := rfl
@[simp] theorem setCnt_txq (v : Counters) : (setCnt v s).txq = s.txq := rfl
@[simp] theorem setCnt_txqReserved (v : Counters) : (setCnt v s).txqReserved = s.txqReserved := rfl
@[simp] theorem setCnt_rxq (v : Counters) : (setCnt v s).rxq = s.rxq := rfl
@[simp] theorem setCnt_rxqOwned (v : Counters) : (setCnt v s).rxqOwned = s.rxqOwned := rfl
@[simp] theorem setCnt_rxqOslot (v : Counters) : (setCnt v s).rxqOslot = s.rxqOslot := rfl
@[simp] theorem setCnt_fault (v : Counters) : (setCnt v s).fault = s.fault := rfl
@[simp] theorem setCnt_cnt (v : Counters) : (setCnt v s).cnt = v := rfl
@[simp] theorem setCnt_rsp (v : Counters) : (setCnt v s).rsp = s.rsp := rfl
@[simp] theorem setCnt_irq (v : Counters) : (setCnt v s).irq = s.irq := rfl
@[simp] theorem setCnt_requests (v : Counters) : (setCnt v s).requests = s.requests := rfl
@[simp] theorem setCnt_answers (v : Counters) : (setCnt v s).answers = s.answers := rfl
@[simp] theorem setCnt_inputs (v : Counters) : (setCnt v s).inputs = s.inputs := rfl
@[simp] theorem setCnt_draws (v : Counters) : (setCnt v s).draws = s.draws := rfl

@[simp] theorem setRsp_build (v : Response) : (setRsp v s).build = s.build := rfl
@[simp] theorem setRsp_cfg (v : Response) : (setRsp v s).cfg = s.cfg := rfl
@[simp] theorem setRsp_sched (v : Response) : (setRsp v s).sched = s.sched := rfl
@[simp] theorem setRsp_timer (v : Response) : (setRsp v s).timer = s.timer := rfl
@[simp] theorem setRsp_radio (v : Response) : (setRsp v s).radio = s.radio := rfl
@[simp] theorem setRsp_frameBuf (v : Response) : (setRsp v s).frameBuf = s.frameBuf := rfl
@[simp] theorem setRsp_stage (v : Response) : (setRsp v s).stage = s.stage := rfl
@[simp] theorem setRsp_txq (v : Response) : (setRsp v s).txq = s.txq := rfl
@[simp] theorem setRsp_txqReserved (v : Response) : (setRsp v s).txqReserved = s.txqReserved := rfl
@[simp] theorem setRsp_rxq (v : Response) : (setRsp v s).rxq = s.rxq := rfl
@[simp] theorem setRsp_rxqOwned (v : Response) : (setRsp v s).rxqOwned = s.rxqOwned := rfl
@[simp] theorem setRsp_rxqOslot (v : Response) : (setRsp v s).rxqOslot = s.rxqOslot := rfl
@[simp] theorem setRsp_fault (v : Response) : (setRsp v s).fault = s.fault := rfl
@[simp] theorem setRsp_cnt (v : Response) : (setRsp v s).cnt = s.cnt := rfl
@[simp] theorem setRsp_rsp (v : Response) : (setRsp v s).rsp = v := rfl
@[simp] theorem setRsp_irq (v : Response) : (setRsp v s).irq = s.irq := rfl
@[simp] theorem setRsp_requests (v : Response) : (setRsp v s).requests = s.requests := rfl
@[simp] theorem setRsp_answers (v : Response) : (setRsp v s).answers = s.answers := rfl
@[simp] theorem setRsp_inputs (v : Response) : (setRsp v s).inputs = s.inputs := rfl
@[simp] theorem setRsp_draws (v : Response) : (setRsp v s).draws = s.draws := rfl

@[simp] theorem setIrq_build (v : Bool) : (setIrq v s).build = s.build := rfl
@[simp] theorem setIrq_cfg (v : Bool) : (setIrq v s).cfg = s.cfg := rfl
@[simp] theorem setIrq_sched (v : Bool) : (setIrq v s).sched = s.sched := rfl
@[simp] theorem setIrq_timer (v : Bool) : (setIrq v s).timer = s.timer := rfl
@[simp] theorem setIrq_radio (v : Bool) : (setIrq v s).radio = s.radio := rfl
@[simp] theorem setIrq_frameBuf (v : Bool) : (setIrq v s).frameBuf = s.frameBuf := rfl
@[simp] theorem setIrq_stage (v : Bool) : (setIrq v s).stage = s.stage := rfl
@[simp] theorem setIrq_txq (v : Bool) : (setIrq v s).txq = s.txq := rfl
@[simp] theorem setIrq_txqReserved (v : Bool) : (setIrq v s).txqReserved = s.txqReserved := rfl
@[simp] theorem setIrq_rxq (v : Bool) : (setIrq v s).rxq = s.rxq := rfl
@[simp] theorem setIrq_rxqOwned (v : Bool) : (setIrq v s).rxqOwned = s.rxqOwned := rfl
@[simp] theorem setIrq_rxqOslot (v : Bool) : (setIrq v s).rxqOslot = s.rxqOslot := rfl
@[simp] theorem setIrq_fault (v : Bool) : (setIrq v s).fault = s.fault := rfl
@[simp] theorem setIrq_cnt (v : Bool) : (setIrq v s).cnt = s.cnt := rfl
@[simp] theorem setIrq_rsp (v : Bool) : (setIrq v s).rsp = s.rsp := rfl
@[simp] theorem setIrq_irq (v : Bool) : (setIrq v s).irq = v := rfl
@[simp] theorem setIrq_requests (v : Bool) : (setIrq v s).requests = s.requests := rfl
@[simp] theorem setIrq_answers (v : Bool) : (setIrq v s).answers = s.answers := rfl
@[simp] theorem setIrq_inputs (v : Bool) : (setIrq v s).inputs = s.inputs := rfl
@[simp] theorem setIrq_draws (v : Bool) : (setIrq v s).draws = s.draws := rfl

@[simp] theorem setRequests_build (v : List RadioRequest) : (setRequests v s).build = s.build := rfl
@[simp] theorem setRequests_cfg (v : List RadioRequest) : (setRequests v s).cfg = s.cfg := rfl
@[simp] theorem setRequests_sched (v : List RadioRequest) : (setRequests v s).sched = s.sched := rfl
@[simp] theorem setRequests_timer (v : List RadioRequest) : (setRequests v s).timer = s.timer := rfl
@[simp] theorem setRequests_radio (v : List RadioRequest) : (setRequests v s).radio = s.radio := rfl
@[simp] theorem setRequests_frameBuf (v : List RadioRequest) : (setRequests v s).frameBuf = s.frameBuf := rfl
@[simp] theorem setRequests_stage (v : List RadioRequest) : (setRequests v s).stage = s.stage := rfl
@[simp] theorem setRequests_txq (v : List RadioRequest) : (setRequests v s).txq = s.txq := rfl
@[simp] theorem setRequests_txqReserved (v : List RadioRequest) : (setRequests v s).txqReserved = s.txqReserved := rfl
@[simp] theorem setRequests_rxq (v : List RadioRequest) : (setRequests v s).rxq = s.rxq := rfl
@[simp] theorem setRequests_rxqOwned (v : List RadioRequest) : (setRequests v s).rxqOwned = s.rxqOwned := rfl
@[simp] theorem setRequests_rxqOslot (v : List RadioRequest) : (setRequests v s).rxqOslot = s.rxqOslot := rfl
@[simp] theorem setRequests_fault (v : List RadioRequest) : (setRequests v s).fault = s.fault := rfl
@[simp] theorem setRequests_cnt (v : List RadioRequest) : (setRequests v s).cnt = s.cnt := rfl
@[simp] theorem setRequests_rsp (v : List RadioRequest) : (setRequests v s).rsp = s.rsp := rfl
@[simp] theorem setRequests_irq (v : List RadioRequest) : (setRequests v s).irq = s.irq := rfl
@[simp] theorem setRequests_requests (v : List RadioRequest) : (setRequests v s).requests = v := rfl
@[simp] theorem setRequests_answers (v : List RadioRequest) : (setRequests v s).answers = s.answers := rfl
@[simp] theorem setRequests_inputs (v : List RadioRequest) : (setRequests v s).inputs = s.inputs := rfl
@[simp] theorem setRequests_draws (v : List RadioRequest) : (setRequests v s).draws = s.draws := rfl

@[simp] theorem setAnswers_build (v : Answers) : (setAnswers v s).build = s.build := rfl
@[simp] theorem setAnswers_cfg (v : Answers) : (setAnswers v s).cfg = s.cfg := rfl
@[simp] theorem setAnswers_sched (v : Answers) : (setAnswers v s).sched = s.sched := rfl
@[simp] theorem setAnswers_timer (v : Answers) : (setAnswers v s).timer = s.timer := rfl
@[simp] theorem setAnswers_radio (v : Answers) : (setAnswers v s).radio = s.radio := rfl
@[simp] theorem setAnswers_frameBuf (v : Answers) : (setAnswers v s).frameBuf = s.frameBuf := rfl
@[simp] theorem setAnswers_stage (v : Answers) : (setAnswers v s).stage = s.stage := rfl
@[simp] theorem setAnswers_txq (v : Answers) : (setAnswers v s).txq = s.txq := rfl
@[simp] theorem setAnswers_txqReserved (v : Answers) : (setAnswers v s).txqReserved = s.txqReserved := rfl
@[simp] theorem setAnswers_rxq (v : Answers) : (setAnswers v s).rxq = s.rxq := rfl
@[simp] theorem setAnswers_rxqOwned (v : Answers) : (setAnswers v s).rxqOwned = s.rxqOwned := rfl
@[simp] theorem setAnswers_rxqOslot (v : Answers) : (setAnswers v s).rxqOslot = s.rxqOslot := rfl
@[simp] theorem setAnswers_fault (v : Answers) : (setAnswers v s).fault = s.fault := rfl
@[simp] theorem setAnswers_cnt (v : Answers) : (setAnswers v s).cnt = s.cnt := rfl
@[simp] theorem setAnswers_rsp (v : Answers) : (setAnswers v s).rsp = s.rsp := rfl
@[simp] theorem setAnswers_irq (v : Answers) : (setAnswers v s).irq = s.irq := rfl
@[simp] theorem setAnswers_requests (v : Answers) : (setAnswers v s).requests = s.requests := rfl
@[simp] theorem setAnswers_answers (v : Answers) : (setAnswers v s).answers = v := rfl
@[simp] theorem setAnswers_inputs (v : Answers) : (setAnswers v s).inputs = s.inputs := rfl
@[simp] theorem setAnswers_draws (v : Answers) : (setAnswers v s).draws = s.draws := rfl

@[simp] theorem setInputs_build (v : List CycleIn) : (setInputs v s).build = s.build := rfl
@[simp] theorem setInputs_cfg (v : List CycleIn) : (setInputs v s).cfg = s.cfg := rfl
@[simp] theorem setInputs_sched (v : List CycleIn) : (setInputs v s).sched = s.sched := rfl
@[simp] theorem setInputs_timer (v : List CycleIn) : (setInputs v s).timer = s.timer := rfl
@[simp] theorem setInputs_radio (v : List CycleIn) : (setInputs v s).radio = s.radio := rfl
@[simp] theorem setInputs_frameBuf (v : List CycleIn) : (setInputs v s).frameBuf = s.frameBuf := rfl
@[simp] theorem setInputs_stage (v : List CycleIn) : (setInputs v s).stage = s.stage := rfl
@[simp] theorem setInputs_txq (v : List CycleIn) : (setInputs v s).txq = s.txq := rfl
@[simp] theorem setInputs_txqReserved (v : List CycleIn) : (setInputs v s).txqReserved = s.txqReserved := rfl
@[simp] theorem setInputs_rxq (v : List CycleIn) : (setInputs v s).rxq = s.rxq := rfl
@[simp] theorem setInputs_rxqOwned (v : List CycleIn) : (setInputs v s).rxqOwned = s.rxqOwned := rfl
@[simp] theorem setInputs_rxqOslot (v : List CycleIn) : (setInputs v s).rxqOslot = s.rxqOslot := rfl
@[simp] theorem setInputs_fault (v : List CycleIn) : (setInputs v s).fault = s.fault := rfl
@[simp] theorem setInputs_cnt (v : List CycleIn) : (setInputs v s).cnt = s.cnt := rfl
@[simp] theorem setInputs_rsp (v : List CycleIn) : (setInputs v s).rsp = s.rsp := rfl
@[simp] theorem setInputs_irq (v : List CycleIn) : (setInputs v s).irq = s.irq := rfl
@[simp] theorem setInputs_requests (v : List CycleIn) : (setInputs v s).requests = s.requests := rfl
@[simp] theorem setInputs_answers (v : List CycleIn) : (setInputs v s).answers = s.answers := rfl
@[simp] theorem setInputs_inputs (v : List CycleIn) : (setInputs v s).inputs = v := rfl
@[simp] theorem setInputs_draws (v : List CycleIn) : (setInputs v s).draws = s.draws := rfl

@[simp] theorem setDraws_build (v : Nat) : (setDraws v s).build = s.build := rfl
@[simp] theorem setDraws_cfg (v : Nat) : (setDraws v s).cfg = s.cfg := rfl
@[simp] theorem setDraws_sched (v : Nat) : (setDraws v s).sched = s.sched := rfl
@[simp] theorem setDraws_timer (v : Nat) : (setDraws v s).timer = s.timer := rfl
@[simp] theorem setDraws_radio (v : Nat) : (setDraws v s).radio = s.radio := rfl
@[simp] theorem setDraws_frameBuf (v : Nat) : (setDraws v s).frameBuf = s.frameBuf := rfl
@[simp] theorem setDraws_stage (v : Nat) : (setDraws v s).stage = s.stage := rfl
@[simp] theorem setDraws_txq (v : Nat) : (setDraws v s).txq = s.txq := rfl
@[simp] theorem setDraws_txqReserved (v : Nat) : (setDraws v s).txqReserved = s.txqReserved := rfl
@[simp] theorem setDraws_rxq (v : Nat) : (setDraws v s).rxq = s.rxq := rfl
@[simp] theorem setDraws_rxqOwned (v : Nat) : (setDraws v s).rxqOwned = s.rxqOwned := rfl
@[simp] theorem setDraws_rxqOslot (v : Nat) : (setDraws v s).rxqOslot = s.rxqOslot := rfl
@[simp] theorem setDraws_fault (v : Nat) : (setDraws v s).fault = s.fault := rfl
@[simp] theorem setDraws_cnt (v : Nat) : (setDraws v s).cnt = s.cnt := rfl
@[simp] theorem setDraws_rsp (v : Nat) : (setDraws v s).rsp = s.rsp := rfl
@[simp] theorem setDraws_irq (v : Nat) : (setDraws v s).irq = s.irq := rfl
@[simp] theorem setDraws_requests (v : Nat) : (setDraws v s).requests = s.requests := rfl
@[simp] theorem setDraws_answers (v : Nat) : (setDraws v s).answers = s.answers := rfl
@[simp] theorem setDraws_inputs (v : Nat) : (setDraws v s).inputs = s.inputs := rfl
@[simp] theorem setDraws_draws (v : Nat) : (setDraws v s).draws = v := rfl

end

end Sys2Proof.Machine
end

