-- ==== Sys2Proof/Laws/Ops.lean ====
section
/-! SUPPORT. What each shared operation of Machine/Ops.lean can do, said once: its effect on every field of State,
and what follows from an answer `next`. -/

namespace Sys2Proof.Machine

/-! ## Sequencing -/

@[simp] theorem andThen_next {α β : Type} (a : α) (f : α → Result β) : andThen (.next a) f = f a := rfl
@[simp] theorem andThen_fault {α β : Type} (r : Fault) (f : α → Result β) :
    andThen (.fault r) f = .fault r := rfl
@[simp] theorem andThen_refused {α β : Type} (r : Refusal) (f : α → Result β) :
    andThen (.refused r) f = .refused r := rfl

/-- A sequence answers `next` only where both parts do. -/
theorem andThen_eq_next {α β : Type} {o : Result α} {f : α → Result β} {b : β} :
    andThen o f = .next b ↔ ∃ a, o = .next a ∧ f a = .next b := by
  cases o <;> simp [andThen]

/-! ## One lemma per field per operation -/

section
variable (s : State)

@[simp] theorem arm_build (v : Nat) : (arm v s).build = s.build := rfl
@[simp] theorem arm_cfg (v : Nat) : (arm v s).cfg = s.cfg := rfl
@[simp] theorem arm_sched (v : Nat) : (arm v s).sched = s.sched := rfl
@[simp] theorem arm_timer (v : Nat) : (arm v s).timer = ⟨true, BitVec.ofNat 32 v⟩ := rfl
@[simp] theorem arm_radio (v : Nat) : (arm v s).radio = s.radio := rfl
@[simp] theorem arm_frameBuf (v : Nat) : (arm v s).frameBuf = s.frameBuf := rfl
@[simp] theorem arm_stage (v : Nat) : (arm v s).stage = s.stage := rfl
@[simp] theorem arm_txq (v : Nat) : (arm v s).txq = s.txq := rfl
@[simp] theorem arm_txqReserved (v : Nat) : (arm v s).txqReserved = s.txqReserved := rfl
@[simp] theorem arm_rxq (v : Nat) : (arm v s).rxq = s.rxq := rfl
@[simp] theorem arm_rxqOwned (v : Nat) : (arm v s).rxqOwned = s.rxqOwned := rfl
@[simp] theorem arm_rxqOslot (v : Nat) : (arm v s).rxqOslot = s.rxqOslot := rfl
@[simp] theorem arm_fault (v : Nat) : (arm v s).fault = s.fault := rfl
@[simp] theorem arm_cnt (v : Nat) : (arm v s).cnt = s.cnt := rfl
@[simp] theorem arm_rsp (v : Nat) : (arm v s).rsp = s.rsp := rfl
@[simp] theorem arm_irq (v : Nat) : (arm v s).irq = s.irq := rfl
@[simp] theorem arm_requests (v : Nat) : (arm v s).requests = s.requests := rfl
@[simp] theorem arm_answers (v : Nat) : (arm v s).answers = s.answers := rfl
@[simp] theorem arm_inputs (v : Nat) : (arm v s).inputs = s.inputs := rfl
@[simp] theorem arm_draws (v : Nat) : (arm v s).draws = s.draws := rfl

@[simp] theorem stopTimer_build : (stopTimer s).build = s.build := rfl
@[simp] theorem stopTimer_cfg : (stopTimer s).cfg = s.cfg := rfl
@[simp] theorem stopTimer_sched : (stopTimer s).sched = s.sched := rfl
@[simp] theorem stopTimer_timer : (stopTimer s).timer = ⟨false, 0⟩ := rfl
@[simp] theorem stopTimer_radio : (stopTimer s).radio = s.radio := rfl
@[simp] theorem stopTimer_frameBuf : (stopTimer s).frameBuf = s.frameBuf := rfl
@[simp] theorem stopTimer_stage : (stopTimer s).stage = s.stage := rfl
@[simp] theorem stopTimer_txq : (stopTimer s).txq = s.txq := rfl
@[simp] theorem stopTimer_txqReserved : (stopTimer s).txqReserved = s.txqReserved := rfl
@[simp] theorem stopTimer_rxq : (stopTimer s).rxq = s.rxq := rfl
@[simp] theorem stopTimer_rxqOwned : (stopTimer s).rxqOwned = s.rxqOwned := rfl
@[simp] theorem stopTimer_rxqOslot : (stopTimer s).rxqOslot = s.rxqOslot := rfl
@[simp] theorem stopTimer_fault : (stopTimer s).fault = s.fault := rfl
@[simp] theorem stopTimer_cnt : (stopTimer s).cnt = s.cnt := rfl
@[simp] theorem stopTimer_rsp : (stopTimer s).rsp = s.rsp := rfl
@[simp] theorem stopTimer_irq : (stopTimer s).irq = s.irq := rfl
@[simp] theorem stopTimer_requests : (stopTimer s).requests = s.requests := rfl
@[simp] theorem stopTimer_answers : (stopTimer s).answers = s.answers := rfl
@[simp] theorem stopTimer_inputs : (stopTimer s).inputs = s.inputs := rfl
@[simp] theorem stopTimer_draws : (stopTimer s).draws = s.draws := rfl

@[simp] theorem count_build (c : Counter) : (count c s).build = s.build := rfl
@[simp] theorem count_cfg (c : Counter) : (count c s).cfg = s.cfg := rfl
@[simp] theorem count_sched (c : Counter) : (count c s).sched = s.sched := rfl
@[simp] theorem count_timer (c : Counter) : (count c s).timer = s.timer := rfl
@[simp] theorem count_radio (c : Counter) : (count c s).radio = s.radio := rfl
@[simp] theorem count_frameBuf (c : Counter) : (count c s).frameBuf = s.frameBuf := rfl
@[simp] theorem count_stage (c : Counter) : (count c s).stage = s.stage := rfl
@[simp] theorem count_txq (c : Counter) : (count c s).txq = s.txq := rfl
@[simp] theorem count_txqReserved (c : Counter) : (count c s).txqReserved = s.txqReserved := rfl
@[simp] theorem count_rxq (c : Counter) : (count c s).rxq = s.rxq := rfl
@[simp] theorem count_rxqOwned (c : Counter) : (count c s).rxqOwned = s.rxqOwned := rfl
@[simp] theorem count_rxqOslot (c : Counter) : (count c s).rxqOslot = s.rxqOslot := rfl
@[simp] theorem count_fault (c : Counter) : (count c s).fault = s.fault := rfl
@[simp] theorem count_cnt (c : Counter) : (count c s).cnt = s.cnt.bump c := rfl
@[simp] theorem count_rsp (c : Counter) : (count c s).rsp = s.rsp := rfl
@[simp] theorem count_irq (c : Counter) : (count c s).irq = s.irq := rfl
@[simp] theorem count_requests (c : Counter) : (count c s).requests = s.requests := rfl
@[simp] theorem count_answers (c : Counter) : (count c s).answers = s.answers := rfl
@[simp] theorem count_inputs (c : Counter) : (count c s).inputs = s.inputs := rfl
@[simp] theorem count_draws (c : Counter) : (count c s).draws = s.draws := rfl

@[simp] theorem respond_build (f : Bool) (v : Word) : (respond f v s).build = s.build := rfl
@[simp] theorem respond_cfg (f : Bool) (v : Word) : (respond f v s).cfg = s.cfg := rfl
@[simp] theorem respond_sched (f : Bool) (v : Word) : (respond f v s).sched = s.sched := rfl
@[simp] theorem respond_timer (f : Bool) (v : Word) : (respond f v s).timer = s.timer := rfl
@[simp] theorem respond_radio (f : Bool) (v : Word) : (respond f v s).radio = s.radio := rfl
@[simp] theorem respond_frameBuf (f : Bool) (v : Word) : (respond f v s).frameBuf = s.frameBuf := rfl
@[simp] theorem respond_stage (f : Bool) (v : Word) : (respond f v s).stage = s.stage := rfl
@[simp] theorem respond_txq (f : Bool) (v : Word) : (respond f v s).txq = s.txq := rfl
@[simp] theorem respond_txqReserved (f : Bool) (v : Word) : (respond f v s).txqReserved = s.txqReserved := rfl
@[simp] theorem respond_rxq (f : Bool) (v : Word) : (respond f v s).rxq = s.rxq := rfl
@[simp] theorem respond_rxqOwned (f : Bool) (v : Word) : (respond f v s).rxqOwned = s.rxqOwned := rfl
@[simp] theorem respond_rxqOslot (f : Bool) (v : Word) : (respond f v s).rxqOslot = s.rxqOslot := rfl
@[simp] theorem respond_fault (f : Bool) (v : Word) : (respond f v s).fault = s.fault := rfl
@[simp] theorem respond_cnt (f : Bool) (v : Word) : (respond f v s).cnt = s.cnt := rfl
@[simp] theorem respond_rsp (f : Bool) (v : Word) : (respond f v s).rsp = ⟨f, v⟩ := rfl
@[simp] theorem respond_irq (f : Bool) (v : Word) : (respond f v s).irq = s.irq := rfl
@[simp] theorem respond_requests (f : Bool) (v : Word) : (respond f v s).requests = s.requests := rfl
@[simp] theorem respond_answers (f : Bool) (v : Word) : (respond f v s).answers = s.answers := rfl
@[simp] theorem respond_inputs (f : Bool) (v : Word) : (respond f v s).inputs = s.inputs := rfl
@[simp] theorem respond_draws (f : Bool) (v : Word) : (respond f v s).draws = s.draws := rfl

@[simp] theorem request_build (r : RadioRequest) : (request r s).build = s.build := rfl
@[simp] theorem request_cfg (r : RadioRequest) : (request r s).cfg = s.cfg := rfl
@[simp] theorem request_sched (r : RadioRequest) : (request r s).sched = s.sched := rfl
@[simp] theorem request_timer (r : RadioRequest) : (request r s).timer = s.timer := rfl
@[simp] theorem request_radio (r : RadioRequest) : (request r s).radio = s.radio := rfl
@[simp] theorem request_frameBuf (r : RadioRequest) : (request r s).frameBuf = s.frameBuf := rfl
@[simp] theorem request_stage (r : RadioRequest) : (request r s).stage = s.stage := rfl
@[simp] theorem request_txq (r : RadioRequest) : (request r s).txq = s.txq := rfl
@[simp] theorem request_txqReserved (r : RadioRequest) : (request r s).txqReserved = s.txqReserved := rfl
@[simp] theorem request_rxq (r : RadioRequest) : (request r s).rxq = s.rxq := rfl
@[simp] theorem request_rxqOwned (r : RadioRequest) : (request r s).rxqOwned = s.rxqOwned := rfl
@[simp] theorem request_rxqOslot (r : RadioRequest) : (request r s).rxqOslot = s.rxqOslot := rfl
@[simp] theorem request_fault (r : RadioRequest) : (request r s).fault = s.fault := rfl
@[simp] theorem request_cnt (r : RadioRequest) : (request r s).cnt = s.cnt := rfl
@[simp] theorem request_rsp (r : RadioRequest) : (request r s).rsp = s.rsp := rfl
@[simp] theorem request_irq (r : RadioRequest) : (request r s).irq = s.irq := rfl
@[simp] theorem request_requests (r : RadioRequest) : (request r s).requests = s.requests ++ [r] := rfl
@[simp] theorem request_answers (r : RadioRequest) : (request r s).answers = s.answers := rfl
@[simp] theorem request_inputs (r : RadioRequest) : (request r s).inputs = s.inputs := rfl
@[simp] theorem request_draws (r : RadioRequest) : (request r s).draws = s.draws := rfl

@[simp] theorem raiseFault_build (c : Cause) (op : BitVec 5) : (raiseFault c op s).build = s.build := rfl
@[simp] theorem raiseFault_cfg (c : Cause) (op : BitVec 5) : (raiseFault c op s).cfg = s.cfg := rfl
@[simp] theorem raiseFault_sched (c : Cause) (op : BitVec 5) : (raiseFault c op s).sched = s.sched := rfl
@[simp] theorem raiseFault_timer (c : Cause) (op : BitVec 5) : (raiseFault c op s).timer = ⟨false, 0⟩ := rfl
@[simp] theorem raiseFault_radio (c : Cause) (op : BitVec 5) : (raiseFault c op s).radio = s.radio := rfl
@[simp] theorem raiseFault_frameBuf (c : Cause) (op : BitVec 5) : (raiseFault c op s).frameBuf = s.frameBuf := rfl
@[simp] theorem raiseFault_stage (c : Cause) (op : BitVec 5) : (raiseFault c op s).stage = s.stage := rfl
@[simp] theorem raiseFault_txq (c : Cause) (op : BitVec 5) : (raiseFault c op s).txq = s.txq := rfl
@[simp] theorem raiseFault_txqReserved (c : Cause) (op : BitVec 5) : (raiseFault c op s).txqReserved = s.txqReserved := rfl
@[simp] theorem raiseFault_rxq (c : Cause) (op : BitVec 5) : (raiseFault c op s).rxq = s.rxq := rfl
@[simp] theorem raiseFault_rxqOwned (c : Cause) (op : BitVec 5) : (raiseFault c op s).rxqOwned = s.rxqOwned := rfl
@[simp] theorem raiseFault_rxqOslot (c : Cause) (op : BitVec 5) : (raiseFault c op s).rxqOslot = s.rxqOslot := rfl
@[simp] theorem raiseFault_fault (c : Cause) (op : BitVec 5) : (raiseFault c op s).fault = ⟨true, causeCode c, op⟩ := rfl
@[simp] theorem raiseFault_cnt (c : Cause) (op : BitVec 5) : (raiseFault c op s).cnt = s.cnt := rfl
@[simp] theorem raiseFault_rsp (c : Cause) (op : BitVec 5) : (raiseFault c op s).rsp = ⟨true, 0⟩ := rfl
@[simp] theorem raiseFault_irq (c : Cause) (op : BitVec 5) : (raiseFault c op s).irq = s.irq := rfl
@[simp] theorem raiseFault_requests (c : Cause) (op : BitVec 5) : (raiseFault c op s).requests = s.requests := rfl
@[simp] theorem raiseFault_answers (c : Cause) (op : BitVec 5) : (raiseFault c op s).answers = s.answers := rfl
@[simp] theorem raiseFault_inputs (c : Cause) (op : BitVec 5) : (raiseFault c op s).inputs = s.inputs := rfl
@[simp] theorem raiseFault_draws (c : Cause) (op : BitVec 5) : (raiseFault c op s).draws = s.draws := rfl

@[simp] theorem restoreRx_build : (restoreRx s).build = s.build := by
  cases h : s.answers.rx <;> simp [restoreRx, h]
@[simp] theorem restoreRx_cfg : (restoreRx s).cfg = s.cfg := by
  cases h : s.answers.rx <;> simp [restoreRx, h]
@[simp] theorem restoreRx_sched : (restoreRx s).sched = s.sched := by
  cases h : s.answers.rx <;> simp [restoreRx, h]
@[simp] theorem restoreRx_timer : (restoreRx s).timer = s.timer := by
  cases h : s.answers.rx <;> simp [restoreRx, h]
@[simp] theorem restoreRx_frameBuf : (restoreRx s).frameBuf = s.frameBuf := by
  cases h : s.answers.rx <;> simp [restoreRx, h]
@[simp] theorem restoreRx_stage : (restoreRx s).stage = s.stage := by
  cases h : s.answers.rx <;> simp [restoreRx, h]
@[simp] theorem restoreRx_txq : (restoreRx s).txq = s.txq := by
  cases h : s.answers.rx <;> simp [restoreRx, h]
@[simp] theorem restoreRx_txqReserved : (restoreRx s).txqReserved = s.txqReserved := by
  cases h : s.answers.rx <;> simp [restoreRx, h]
@[simp] theorem restoreRx_rxq : (restoreRx s).rxq = s.rxq := by
  cases h : s.answers.rx <;> simp [restoreRx, h]
@[simp] theorem restoreRx_rxqOwned : (restoreRx s).rxqOwned = s.rxqOwned := by
  cases h : s.answers.rx <;> simp [restoreRx, h]
@[simp] theorem restoreRx_rxqOslot : (restoreRx s).rxqOslot = s.rxqOslot := by
  cases h : s.answers.rx <;> simp [restoreRx, h]
@[simp] theorem restoreRx_fault : (restoreRx s).fault = s.fault := by
  cases h : s.answers.rx <;> simp [restoreRx, h]
@[simp] theorem restoreRx_rsp : (restoreRx s).rsp = s.rsp := by
  cases h : s.answers.rx <;> simp [restoreRx, h]
@[simp] theorem restoreRx_irq : (restoreRx s).irq = s.irq := by
  cases h : s.answers.rx <;> simp [restoreRx, h]
@[simp] theorem restoreRx_answers : (restoreRx s).answers = s.answers := by
  cases h : s.answers.rx <;> simp [restoreRx, h]
@[simp] theorem restoreRx_inputs : (restoreRx s).inputs = s.inputs := by
  cases h : s.answers.rx <;> simp [restoreRx, h]
@[simp] theorem restoreRx_draws : (restoreRx s).draws = s.draws := by
  cases h : s.answers.rx <;> simp [restoreRx, h]

/-- `restore_rx` asks for receive mode once and follows the answer (R116). -/
theorem restoreRx_requests : (restoreRx s).requests = s.requests ++ [.setMode .rx s.answers.rx] := by
  cases h : s.answers.rx <;> simp [restoreRx, h]

theorem restoreRx_radio : (restoreRx s).radio =
    if s.answers.rx then ⟨false, false⟩ else { s.radio with rxRestore := true } := by
  cases h : s.answers.rx <;> simp [restoreRx, h]

theorem restoreRx_cnt : (restoreRx s).cnt = if s.answers.rx then s.cnt else s.cnt.bump .rxModeFail := by
  cases h : s.answers.rx <;> simp [restoreRx, h]

@[simp] theorem setMem_build (k : MemKind) (m : Memory) : (setMem k m s).build = s.build := by cases k <;> rfl
@[simp] theorem setMem_cfg (k : MemKind) (m : Memory) : (setMem k m s).cfg = s.cfg := by cases k <;> rfl
@[simp] theorem setMem_sched (k : MemKind) (m : Memory) : (setMem k m s).sched = s.sched := by cases k <;> rfl
@[simp] theorem setMem_timer (k : MemKind) (m : Memory) : (setMem k m s).timer = s.timer := by cases k <;> rfl
@[simp] theorem setMem_radio (k : MemKind) (m : Memory) : (setMem k m s).radio = s.radio := by cases k <;> rfl
@[simp] theorem setMem_txqReserved (k : MemKind) (m : Memory) : (setMem k m s).txqReserved = s.txqReserved := by cases k <;> rfl
@[simp] theorem setMem_rxqOwned (k : MemKind) (m : Memory) : (setMem k m s).rxqOwned = s.rxqOwned := by cases k <;> rfl
@[simp] theorem setMem_rxqOslot (k : MemKind) (m : Memory) : (setMem k m s).rxqOslot = s.rxqOslot := by cases k <;> rfl
@[simp] theorem setMem_fault (k : MemKind) (m : Memory) : (setMem k m s).fault = s.fault := by cases k <;> rfl
@[simp] theorem setMem_cnt (k : MemKind) (m : Memory) : (setMem k m s).cnt = s.cnt := by cases k <;> rfl
@[simp] theorem setMem_rsp (k : MemKind) (m : Memory) : (setMem k m s).rsp = s.rsp := by cases k <;> rfl
@[simp] theorem setMem_irq (k : MemKind) (m : Memory) : (setMem k m s).irq = s.irq := by cases k <;> rfl
@[simp] theorem setMem_requests (k : MemKind) (m : Memory) : (setMem k m s).requests = s.requests := by cases k <;> rfl
@[simp] theorem setMem_answers (k : MemKind) (m : Memory) : (setMem k m s).answers = s.answers := by cases k <;> rfl
@[simp] theorem setMem_inputs (k : MemKind) (m : Memory) : (setMem k m s).inputs = s.inputs := by cases k <;> rfl
@[simp] theorem setMem_draws (k : MemKind) (m : Memory) : (setMem k m s).draws = s.draws := by cases k <;> rfl

end

/-- A replaced memory is the one replaced, and every other memory stays. -/
@[simp] theorem memOf_setMem (k k' : MemKind) (m : Memory) (s : State) :
    memOf k' (setMem k m s) = if k' = k then m else memOf k' s := by
  cases k <;> cases k' <;> rfl

/-- Replacing a memory leaves the rings' registers alone. -/
theorem setMem_txq (k : MemKind) (m : Memory) (s : State) :
    (setMem k m s).txq = if k = .txq then { s.txq with mem := m } else s.txq := by
  cases k <;> rfl

theorem setMem_rxq (k : MemKind) (m : Memory) (s : State) :
    (setMem k m s).rxq = if k = .rxq then { s.rxq with mem := m } else s.rxq := by
  cases k <;> rfl

/-! ## Counters -/

/-- `Count(C)` moves one counter by one and no other (R14, R36). -/
theorem Counters.get_bump (c : Counters) (x y : Counter) :
    (c.bump x).get y = if y = x then c.get y + 1 else c.get y := by
  cases x <;> cases y <;> rfl

/-! ## Memory access -/

/-- A read answers where every byte exists, and changes nothing but the number of draws. -/
theorem memRead_eq_next {k : MemKind} {base n : Nat} {s : State} {r : List Byte × State} :
    memRead k base n s = .next r ↔ base + n ≤ memSize s.build k ∧
      r = (((memOf k s).readBytes base n s.draws).1, setDraws ((memOf k s).readBytes base n s.draws).2 s) := by
  unfold memRead; split <;> simp_all [eq_comm]

/-- A write answers where every byte exists, and changes nothing but that memory. -/
theorem memWrite_eq_next {k : MemKind} {base : Nat} {bs : List Byte} {s t : State} :
    memWrite k base bs s = .next t ↔ base + bs.length ≤ memSize s.build k ∧
      t = setMem k ((memOf k s).writeBytes base bs) s := by
  unfold memWrite; split <;> simp_all [eq_comm]

/-- A write keeps every memory's canonical form and bound (20_memory.md R60). -/
theorem memWrite_wf {k : MemKind} {base : Nat} {bs : List Byte} {s t : State} (h : memWrite k base bs s = .next t)
    (hm : ∀ j, (memOf j s).wf = true ∧ (memOf j s).below (memSize s.build j) = true) :
    ∀ j, (memOf j t).wf = true ∧ (memOf j t).below (memSize t.build j) = true := by
  obtain ⟨hle, rfl⟩ := memWrite_eq_next.1 h
  intro j
  rw [setMem_build]
  by_cases hj : j = k
  · subst hj
    rw [show memOf j (setMem j ((memOf j s).writeBytes base bs) s) = (memOf j s).writeBytes base bs by cases j <;> rfl]
    exact ⟨Memory.wf_writeBytes _ _ _ (hm j).1, Memory.below_writeBytes _ _ _ (hm j).2 hle⟩
  · rw [show memOf j (setMem k ((memOf k s).writeBytes base bs) s) = memOf j s by
      cases j <;> cases k <;> first | rfl | exact absurd rfl hj]
    exact hm j

/-- The memories right after reset have the canonical form. -/
theorem reset_memories_wf (k : MemKind) : (memOf k State.reset).wf = true := by cases k <;> rfl

/-! ## Prologues -/

/-- What a command can do (R85): the answer of the fault state, the configuration fault, or its own rule. -/
theorem command_eq_next {op : Opcode} {fa : State → State} {body : State → Result State} {s t : State} :
    command op fa body s = .next t ↔
      (s.fault.faulted = true ∧ t = fa s) ∨
      (s.fault.faulted = false ∧ needsConfig op = true ∧ s.cfg.configured = false ∧
        t = raiseFault .notConfigured (opcodeCode op) s) ∨
      (s.fault.faulted = false ∧ (needsConfig op = true → s.cfg.configured = true) ∧ body s = .next t) := by
  unfold command
  cases s.fault.faulted <;> cases needsConfig op <;> cases s.cfg.configured <;> simp [eq_comm]

/-- A command that is accepted runs its own rule. -/
theorem command_ready {op : Opcode} {fa : State → State} {body : State → Result State} {s : State}
    (hf : s.fault.faulted = false) (hc : needsConfig op = true → s.cfg.configured = true) :
    command op fa body s = body s := by
  unfold command
  cases hn : needsConfig op
  · simp [hf]
  · simp [hf, hc hn]

/-- A command in the fault state (R242). -/
theorem command_faulted {op : Opcode} {fa : State → State} {body : State → Result State} {s : State}
    (hf : s.fault.faulted = true) : command op fa body s = .next (fa s) := by
  simp [command, hf]

/-- What an event or tick can do (R88): nothing at all, or its own rule. -/
theorem gated_eq_next {body : State → Result State} {s t : State} :
    gated body s = .next t ↔
      ((s.cfg.configured = false ∨ s.fault.faulted = true) ∧ t = s) ∨
      (s.cfg.configured = true ∧ s.fault.faulted = false ∧ body s = .next t) := by
  unfold gated
  cases s.fault.faulted <;> cases s.cfg.configured <;> simp [eq_comm]

/-- An event or tick that is not ignored runs its own rule. -/
theorem gated_ready {body : State → Result State} {s : State} (hf : s.fault.faulted = false)
    (hc : s.cfg.configured = true) : gated body s = body s := by
  simp [gated, hf, hc]

end Sys2Proof.Machine
end

