-- ==== Sys2Proof/Laws/Codec.lean ====
section
/-! SUPPORT. The lengths the codec's pieces have, and the bit strings' basic laws (spec 00_scope.md R13,
41_codec.md R141 to R145). -/

namespace Sys2Proof.Machine

/-! ## Bit strings -/

@[simp] theorem bitsOf_length {w : Nat} (v : BitVec w) : (bitsOf v).length = w := by simp [bitsOf]

theorem bitsOf_getElem? {w : Nat} (v : BitVec w) (j : Nat) :
    (bitsOf v)[j]? = if j < w then some (v.getMsbD j) else none := by
  unfold bitsOf
  split <;> simp_all

@[simp] theorem bitString_length (bs : List Byte) : (bitString bs).length = 8 * bs.length := by
  unfold bitString
  induction bs with
  | nil => rfl
  | cons b bs ih => simp [List.flatMap_cons, ih]; omega

@[simp] theorem bitString_nil : bitString [] = [] := rfl

@[simp] theorem bitString_cons (b : Byte) (bs : List Byte) :
    bitString (b :: bs) = bitsOf b ++ bitString bs := rfl

theorem bitString_append (as bs : List Byte) : bitString (as ++ bs) = bitString as ++ bitString bs := by
  simp [bitString]

/-- Appending a bit shifts the value up by one (R13). -/
theorem ofBits_concat (w : Nat) (l : List Bool) (b : Bool) :
    ofBits w (l ++ [b]) = (ofBits w l <<< 1) ||| (if b then 1 else 0) := by
  simp [ofBits]

/-- The value of a string, bit by bit: bit `k` is the string's bit `k` from its end. -/
theorem ofBits_getLsbD (w : Nat) (l : List Bool) (k : Nat) :
    (ofBits w l).getLsbD k = (decide (k < w) && l.reverse.getD k false) := by
  induction l using List.reverseRecOn generalizing k with
  | nil => simp [ofBits]
  | append_singleton l b ih =>
    rw [ofBits_concat, BitVec.getLsbD_or, BitVec.getLsbD_shiftLeft, ih]
    cases k with
    | zero => cases b <;> cases w <;> simp
    | succ k =>
      by_cases h : k + 1 < w
      · cases b <;> simp [h, show k < w by omega]
      · cases b <;> simp [h, BitVec.getLsbD_one]

/-- Reading a value's own bits gives the value (R13). -/
@[simp] theorem ofBits_bitsOf {w : Nat} (v : BitVec w) : ofBits w (bitsOf v) = v := by
  refine BitVec.eq_of_getLsbD_eq fun k hk => ?_
  rw [ofBits_getLsbD]
  simp [hk, bitsOf, BitVec.getMsbD, show w - 1 - k < w by omega,
    show w - 1 - (w - 1 - k) = k by omega]

/-! ## Lengths -/

@[simp] theorem be32_length (v : Word) : (be32 v).length = 4 := rfl

@[simp] theorem message_length (p : List Byte) : (message p).length = p.length + 4 := by simp [message]

@[simp] theorem encodeSymbol_length (rd : Disparity) (b : Byte) : (encodeSymbol rd b).1.length = 10 := by
  simp [encodeSymbol]

@[simp] theorem encodeSymbols_length (m : List Byte) :
    ∀ rd, (encodeSymbols rd m).length = 10 * m.length := by
  induction m with
  | nil => intro rd; rfl
  | cons b m ih => intro rd; simp [encodeSymbols, ih]; omega

/-- Every byte becomes exactly one symbol (R142). -/
@[simp] theorem lineEncode_length (codec : LineCode) (m : List Byte) :
    (lineEncode codec m).length = symbitsOf codec * m.length := by
  cases codec <;> simp [lineEncode, symbitsOf]

/-- The frame has `framebits` bits (R145). -/
@[simp] theorem frame_length (pre : BitVec 24) (codec : LineCode) (p : List Byte) :
    (frame pre codec p).length = framebitsOf codec p.length := by
  simp [frame, framebitsOf]; omega

/-- `pack` rounds up to whole bytes (R13, R143). -/
@[simp] theorem pack_length (s : List Bool) : (pack s).length = (s.length + 7) / 8 := by
  simp [pack]; omega

/-- `encode` writes `txlen` bytes (R143). -/
theorem pack_frame_length (pre : BitVec 24) (codec : LineCode) (p : List Byte) :
    (pack (frame pre codec p)).length = txlenOf codec p.length := by
  simp [txlenOf]

/-! ## Packing -/

/-- Eight bits at a time: the padded string starts with a byte's bits. -/
theorem pack_bits_append (b : Byte) (s : List Bool) : pack (bitsOf b ++ s) = b :: pack s := by
  have hl : ((bitsOf b ++ s).length) % 8 = s.length % 8 := by simp
  have hp : ((bitsOf b ++ s) ++ List.replicate ((8 - s.length % 8) % 8) false).length / 8 =
      (s ++ List.replicate ((8 - s.length % 8) % 8) false).length / 8 + 1 := by
    simp only [List.length_append, bitsOf_length]; omega
  unfold pack
  simp only [hl, hp, List.range_succ_eq_map, List.map_cons, List.map_map]
  congr 1
  simp [slice]

/-- Packing a byte sequence's bits gives the sequence. -/
theorem pack_bitString (bs : List Byte) : pack (bitString bs) = bs := by
  induction bs with
  | nil => rfl
  | cons b bs ih => simp [pack_bits_append, ih]

/-- The bits of a string's value are the string (R13). -/
theorem bitsOf_ofBits {w : Nat} {l : List Bool} (h : l.length = w) : bitsOf (ofBits w l) = l := by
  subst h
  refine List.ext_getElem (by simp) fun k h1 h2 => ?_
  simp only [bitsOf, List.getElem_map, List.getElem_range, BitVec.getMsbD, ofBits_getLsbD]
  simp [h2, List.getElem_reverse, show l.length - 1 - k < l.length by omega,
    show l.length - 1 - (l.length - 1 - k) = k by omega]

/-- Packing a string and reading the bytes' bits gives the string and its padding (R13). -/
theorem bitString_pack : ∀ (n : Nat) (s : List Bool), s.length = n →
    bitString (pack s) = s ++ List.replicate ((8 - n % 8) % 8) false := by
  intro n
  induction n using Nat.strong_induction_on with
  | _ n ih =>
    intro s hs
    rcases Nat.lt_or_ge n 8 with h | h
    · rcases Nat.eq_zero_or_pos n with h0 | h0
      · subst h0; simp only [List.length_eq_zero_iff] at hs; subst hs; rfl
      · have hp : pack s = [ofBits 8 (s ++ List.replicate (8 - n) false)] := by
          unfold pack
          have : (8 - s.length % 8) % 8 = 8 - n := by omega
          rw [this]
          have hl : (s ++ List.replicate (8 - n) false).length = 8 := by simp; omega
          simp only [hl, Nat.reduceDiv, List.range_one, List.map_cons, List.map_nil, slice, Nat.mul_zero,
            List.drop_zero]
          rw [List.take_of_length_le (by omega)]
        rw [hp]
        simp only [bitString_cons, bitString_nil, List.append_nil]
        rw [bitsOf_ofBits (by simp; omega), show (8 - n % 8) % 8 = 8 - n by omega]
    · have hsplit : s = bitsOf (ofBits 8 (s.take 8)) ++ s.drop 8 := by
        rw [bitsOf_ofBits (by simp; omega), List.take_append_drop]
      have hd := ih (n - 8) (by omega) (s.drop 8) (by simp; omega)
      rw [hsplit, pack_bits_append, bitString_cons, hd, List.append_assoc]
      rw [show (8 - (n - 8) % 8) % 8 = (8 - n % 8) % 8 by omega]

/-- The first bits of the packed bytes are the string. -/
theorem take_bitString_pack (s : List Bool) : (bitString (pack s)).take s.length = s := by
  rw [bitString_pack s.length s rfl]; simp

/-! ## Line decoding -/

/-- The line decoder takes one symbol after another. -/
theorem decodeSymbols_length {codec : LineCode} {size : Nat} :
    ∀ {n : Nat} {bits : List Bool} {m : List Byte}, decodeSymbols codec size n bits = some m → m.length = n := by
  intro n
  induction n with
  | zero => intro bits m h; simp [decodeSymbols] at h; simp [h]
  | succ n ih =>
    intro bits m h
    unfold decodeSymbols at h
    split at h
    · next b bs _ h2 => simp at h; subst h; simp [ih h2]
    · simp at h

/-- An inverted message bit does not change the length. -/
@[simp] theorem flipBit_length (m : List Byte) (b : Nat) : (flipBit m b).length = m.length := by
  simp [flipBit]

/-- What a decode can answer: the payload has `CFG_PLEN` bytes (R159). -/
theorem decodeFrame_payload_length {c : CfgRegs} {bits : List Bool} {p : List Byte}
    (h : decodeFrame c bits = .ok p ∨ decodeFrame c bits = .okCorrected p) : p.length = c.plen.toNat := by
  unfold decodeFrame at h
  split at h
  · simp at h
  · split at h
    · simp at h
    · next m hm =>
      have hl := decodeSymbols_length hm
      unfold checkMessage at h
      simp only at h
      split at h
      · simp at h; subst h; simp [hl]
      · split at h
        · simp at h
        · split at h
          · simp at h; subst h; simp [hl]
          · simp at h

end Sys2Proof.Machine
end

