-- ==== Sys2Proof/Laws/Csr.lean ====
section
/-! SUPPORT. The bits of the composed CSR words (spec 10_state.md R42 to R50). -/

namespace Sys2Proof.Machine

open Sys2Proof.Config (Build)

/-- `PARAM0`, bit by bit (R42). -/
theorem param0_getLsbD (b : Build) (k : Nat) : (param0 b).getLsbD k =
    if k < 8 then b.payloadMax.getLsbD k else if k < 16 then (3 : BitVec 8).getLsbD (k - 8)
    else if k < 17 then (cdcBit b.cdcMode).getLsbD (k - 16) else if k < 24 then false
    else if k < 28 then (stagesShown b).getLsbD (k - 24) else false := by
  unfold param0
  erw [BitVec.getLsbD_append, BitVec.getLsbD_append, BitVec.getLsbD_append, BitVec.getLsbD_append,
    BitVec.getLsbD_append]
  grind

/-- `CONFIG`, bit by bit (R44). -/
theorem configWord_getLsbD (c : CfgRegs) (k : Nat) : (configWord c).getLsbD k =
    if k < 8 then c.i.getLsbD k else if k < 16 then c.n.getLsbD (k - 8) else if k < 24 then c.plen.getLsbD (k - 16)
    else if k < 25 then (codecBit c.codec).getLsbD (k - 24) else if k < 31 then false
    else (flag c.configured).getLsbD (k - 31) := by
  unfold configWord
  erw [BitVec.getLsbD_append, BitVec.getLsbD_append, BitVec.getLsbD_append, BitVec.getLsbD_append,
    BitVec.getLsbD_append]
  grind

/-- `STATUS`, bit by bit (R45). -/
theorem statusWord_getLsbD (s : State) (k : Nat) : (statusWord s).getLsbD k =
    if k < 2 then (stateCode s.sched.state).getLsbD k else if k < 3 then (flag s.sched.valid).getLsbD (k - 2)
    else if k < 4 then false else if k < 8 then s.sched.rep.getLsbD (k - 4)
    else if k < 9 then (flag s.radio.radioTx).getLsbD (k - 8)
    else if k < 10 then (flag s.radio.rxRestore).getLsbD (k - 9)
    else if k < 11 then (flag s.timer.armed).getLsbD (k - 10)
    else if k < 12 then (flag s.txqReserved).getLsbD (k - 11)
    else if k < 13 then (flag s.rxqOwned).getLsbD (k - 12)
    else if k < 14 then (flag (irqOf s)).getLsbD (k - 13) else if k < 31 then false
    else (flag s.fault.faulted).getLsbD (k - 31) := by
  unfold statusWord
  generalize irqOf s = irq
  refine BitVec.getLsbD_append.trans ?_
  by_cases h : k < 2
  · rw [if_pos h, if_pos h]
  rw [if_neg h, if_neg h]
  refine BitVec.getLsbD_append.trans ?_
  by_cases h : k < 3
  · rw [if_pos h, if_pos (by omega)]
  rw [if_neg h, if_neg (by omega)]
  refine BitVec.getLsbD_append.trans ?_
  by_cases h : k < 4
  · rw [if_pos h, if_pos (by omega)]; simp
  rw [if_neg h, if_neg (by omega)]
  refine BitVec.getLsbD_append.trans ?_
  by_cases h : k < 8
  · rw [if_pos h, if_pos (by omega)]; congr 1
  rw [if_neg h, if_neg (by omega)]
  refine BitVec.getLsbD_append.trans ?_
  by_cases h : k < 9
  · rw [if_pos h, if_pos (by omega)]; congr 1
  rw [if_neg h, if_neg (by omega)]
  refine BitVec.getLsbD_append.trans ?_
  by_cases h : k < 10
  · rw [if_pos h, if_pos (by omega)]; congr 1
  rw [if_neg h, if_neg (by omega)]
  refine BitVec.getLsbD_append.trans ?_
  by_cases h : k < 11
  · rw [if_pos h, if_pos (by omega)]; congr 1
  rw [if_neg h, if_neg (by omega)]
  refine BitVec.getLsbD_append.trans ?_
  by_cases h : k < 12
  · rw [if_pos h, if_pos (by omega)]; congr 1
  rw [if_neg h, if_neg (by omega)]
  refine BitVec.getLsbD_append.trans ?_
  by_cases h : k < 13
  · rw [if_pos h, if_pos (by omega)]; congr 1
  rw [if_neg h, if_neg (by omega)]
  refine BitVec.getLsbD_append.trans ?_
  by_cases h : k < 14
  · rw [if_pos h, if_pos (by omega)]; congr 1
  rw [if_neg h, if_neg (by omega)]
  refine BitVec.getLsbD_append.trans ?_
  by_cases h : k < 31
  · rw [if_pos h, if_pos (by omega)]; simp
  rw [if_neg h, if_neg (by omega)]
  congr 1

/-- `FAULT`, bit by bit (R46). -/
theorem faultWord_getLsbD (f : FaultRegs) (k : Nat) : (faultWord f).getLsbD k =
    if k < 8 then f.cause.getLsbD k else if k < 13 then f.op.getLsbD (k - 8) else false := by
  unfold faultWord
  erw [BitVec.getLsbD_append, BitVec.getLsbD_append]
  grind

/-- `RXQ_OSLOT`, bit by bit (R50). -/
theorem oslotWord_getLsbD (s : State) (k : Nat) : (oslotWord s).getLsbD k =
    if k < 16 then s.rxqOslot.getLsbD k else if k < 31 then false else (flag s.rxqOwned).getLsbD (k - 31) := by
  unfold oslotWord
  erw [BitVec.getLsbD_append, BitVec.getLsbD_append]
  grind

/-- A word of two halves, bit by bit (R47, R49, R50). -/
theorem halves_getLsbD (hi lo : BitVec 16) (k : Nat) : (hi ++ lo : BitVec 32).getLsbD k =
    if k < 16 then lo.getLsbD k else hi.getLsbD (k - 16) := by
  exact BitVec.getLsbD_append

/-- A flag's one bit. -/
@[simp] theorem flag_getLsbD (b : Bool) : (flag b).getLsbD 0 = b := by cases b <;> rfl

end Sys2Proof.Machine
end

