-- ==== Sys2Proof/Laws/Scheduler.lean ====
section
/-! SUPPORT. What each operation of the scheduler can do, said once (spec 40_scheduler.md R104 to R110): the state
it answers, as the writers applied one after another. -/

namespace Sys2Proof.Machine

/-- How many bytes of `FRAME_BUF` hold the first `FRAME_BITS` bits. -/
abbrev frameBytes (s : State) : Nat := (s.cfg.frameBits.toNat + 7) / 8

/-- What `WriteFrame` reads of `FRAME_BUF`, and the draws taken after it. -/
abbrev heldFrame (s : State) : List Byte × Nat := s.frameBuf.readBytes 0 (frameBytes s) s.draws

/-- The state after a successful key-up of `repetition()` (R107). -/
def sentState (s : State) : State :=
  count .txSent (setSched { s.sched with rep := s.sched.rep + 1 }
    (request (.writeFrame ((bitString (heldFrame s).1).take s.cfg.frameBits.toNat))
      (setDraws (heldFrame s).2 (setRadio ⟨true, false⟩
        (request (.setMode .tx true) (arm (period s) s))))))

/-- The state after a failed key-up of `repetition()` (R107). -/
def keyupFailedState (s : State) : State :=
  count .txKeyupFail (request (.setMode .tx false) (arm (period s) s))

/-- `WriteFrame` answers where the frame's bytes exist. -/
theorem writeFrame_eq_next {s t : State} : writeFrame s = .next t ↔
    frameBytes s ≤ frameBufBytes s.build ∧
      t = request (.writeFrame ((bitString (heldFrame s).1).take s.cfg.frameBits.toNat))
        (setDraws (heldFrame s).2 s) := by
  unfold writeFrame
  simp only [andThen_eq_next, memRead_eq_next, Host.Outcome.next.injEq]
  constructor
  · rintro ⟨r, ⟨h, rfl⟩, rfl⟩
    exact ⟨by simpa [memSize] using h, rfl⟩
  · rintro ⟨h, rfl⟩
    exact ⟨_, ⟨by simpa [memSize] using h, rfl⟩, rfl⟩

/-- A key-up that the Radio refuses (R107). -/
theorem repetition_failed {s : State} (h : s.answers.tx = false) :
    repetition s = .next (keyupFailedState s) := by
  simp [repetition, keyupFailedState, h]

/-- A key-up that the Radio grants (R107). -/
theorem repetition_granted {s : State} (h : s.answers.tx = true) :
    repetition s = keyedUp (request (.setMode .tx true) (arm (period s) s)) := by
  simp [repetition, h]

/-- `repetition()` arms the timer and then keys the transmitter (R107). -/
theorem repetition_eq_next {s t : State} : repetition s = .next t ↔
    (s.answers.tx = true ∧ frameBytes s ≤ frameBufBytes s.build ∧ t = sentState s) ∨
      (s.answers.tx = false ∧ t = keyupFailedState s) := by
  cases h : s.answers.tx
  · rw [repetition_failed h]
    simp only [Host.Outcome.next.injEq, Bool.false_eq_true, false_and, true_and, false_or]
    exact eq_comm
  · rw [repetition_granted h]
    simp only [true_and, reduceCtorEq, false_and, or_false]
    unfold keyedUp
    simp only [andThen_eq_next, writeFrame_eq_next, Host.Outcome.next.injEq]
    constructor
    · rintro ⟨a, ⟨h1, rfl⟩, rfl⟩
      exact ⟨h1, rfl⟩
    · rintro ⟨h1, rfl⟩
      exact ⟨_, ⟨h1, rfl⟩, rfl⟩

/-- The Sending case of `dispatch()` (R105). -/
theorem dispatchSending_eq_next {s t : State} : dispatchSending s = .next t ↔
    (s.sched.rep.toNat < s.cfg.n.toNat ∧ repetition s = .next t) ∨
      (s.cfg.n.toNat ≤ s.sched.rep.toNat ∧ t = endCycle s) := by
  unfold dispatchSending
  split
  · next h => simp [h, show ¬ s.cfg.n.toNat ≤ s.sched.rep.toNat by omega]
  · next h => simp [h, show s.cfg.n.toNat ≤ s.sched.rep.toNat by omega, eq_comm]

/-- The state in which `start_send` dispatches: the frame encoded, Sending entered (R110). -/
def startedState (p : List Byte) (s : State) : State :=
  setSched ⟨.sending, 0, true⟩
    (setFrameBuf (s.frameBuf.writeBytes 0 (pack (frame s.build.preamble s.cfg.codec p))) s)

/-- `start_send` encodes, enters Sending and dispatches (R110). -/
theorem startSend_eq_next {p : List Byte} {s t : State} : startSend p s = .next t ↔
    txlenOf s.cfg.codec p.length ≤ frameBufBytes s.build ∧ dispatchSending (startedState p s) = .next t := by
  unfold startSend encodeFrame
  simp only [andThen_eq_next, memWrite_eq_next, pack_frame_length, Nat.zero_add]
  constructor
  · rintro ⟨a, ⟨h, rfl⟩, ht⟩
    exact ⟨h, ht⟩
  · rintro ⟨h, ht⟩
    exact ⟨_, ⟨h, rfl⟩, ht⟩

/-- What an idle-entry pull reads of the oldest TXQ slot, and the draws taken after it. -/
abbrev pulledEntry (s : State) : List Byte × Nat :=
  s.txq.mem.readBytes (slotBase s.txq s.txq.r) s.txq.e.toNat s.draws

/-- Idle entry counts an empty ring, or pulls its oldest entry and starts to send it (R109). -/
theorem idleEntry_eq_next {s t : State} : idleEntry s = .next t ↔
    (countC s.build s.txq = 0 ∧ t = count .txqEmptyPull s) ∨
      (countC s.build s.txq ≠ 0 ∧ slotBase s.txq s.txq.r + s.txq.e.toNat ≤ s.build.ringBytes.toNat ∧
        startSend (pulledEntry s).1 (setDraws (pulledEntry s).2 (txqPop s)) = .next t) := by
  unfold idleEntry
  split
  · next h => simp [h, eq_comm]
  · next h =>
    simp only [h, false_and, ne_eq, not_false_eq_true, true_and, false_or]
    unfold txqEntry
    simp only [andThen_eq_next, memRead_eq_next]
    constructor
    · rintro ⟨r, ⟨h1, rfl⟩, ht⟩
      exact ⟨h1, ht⟩
    · rintro ⟨h1, ht⟩
      exact ⟨_, ⟨h1, rfl⟩, ht⟩

/-- An expiry's dispatch (R105). -/
theorem dispatch_eq_next {s t : State} : dispatch s = .next t ↔
    (s.sched.state = .sending ∧ dispatchSending s = .next t) ∨
      (s.sched.state = .waitGuard ∧
        idleEntry (setSched { s.sched with state := .idle, rep := 0 } s) = .next t) ∨
      (s.sched.state = .idle ∧ t = s) := by
  unfold dispatch guardDone
  cases h : s.sched.state <;> simp [eq_comm]

/-- The countdown of the tick step (R104). -/
theorem countdown_eq_next {s t : State} : countdown s = .next t ↔
    (s.timer.armed = false ∧ t = s) ∨
      (s.timer.armed = true ∧ s.timer.count ≠ 1 ∧ t = setTimer ⟨true, s.timer.count - 1⟩ s) ∨
      (s.timer.armed = true ∧ s.timer.count = 1 ∧ dispatch (setTimer ⟨false, 0⟩ s) = .next t) := by
  unfold countdown
  have hz : s.timer.count - 1 = 0 ↔ s.timer.count = 1 := by
    constructor
    · intro h; bv_omega
    · intro h; simp [h]
  cases h : s.timer.armed
  · simp only [Bool.false_eq_true, if_false, Host.Outcome.next.injEq, true_and, false_and, or_false]
    exact eq_comm
  · simp only [if_true, reduceCtorEq, false_and, false_or, true_and, hz]
    split
    · next h1 => simp [h1]
    · next h1 =>
      simp only [h1, Host.Outcome.next.injEq, ne_eq, not_false_eq_true, true_and, false_and, or_false]
      exact eq_comm

/-! ## Receive delivery (42_ring.md R195) -/

/-- A delivery drops the payload on a full ring, or stores it whole and publishes it. -/
theorem rxqDeliver_eq_next {p : List Byte} {s t : State} : rxqDeliver p s = .next t ↔
    (fullP s.build s.rxq = true ∧ t = count .rxDropFull s) ∨
      (fullP s.build s.rxq = false ∧
        rxqDeliverAddr s + (p.take s.rxq.e.toNat).length ≤ s.build.ringBytes.toNat ∧
        t = rxqPublish (setMem .rxq (s.rxq.mem.writeBytes (rxqDeliverAddr s) (p.take s.rxq.e.toNat)) s)) := by
  unfold rxqDeliver
  cases h : fullP s.build s.rxq
  · simp only [Bool.false_eq_true, if_false, andThen_eq_next, memWrite_eq_next, Host.Outcome.next.injEq,
      false_and, false_or, true_and]
    constructor
    · rintro ⟨a, ⟨h1, rfl⟩, rfl⟩
      exact ⟨h1, rfl⟩
    · rintro ⟨h1, rfl⟩
      exact ⟨_, ⟨h1, rfl⟩, rfl⟩
  · simp [eq_comm]

end Sys2Proof.Machine
end

