-- ==== Sys2Proof/Laws/Effects.lean ====
section
/-! SUPPORT. What each operation can do, said once: the frames of the scheduler's shared operations, and the four
ways an operation can end (ignored, answered by the fault state, a fault, its own effect), so that no proof unfolds an
operation to find its cases. -/

namespace Sys2Proof.Machine

open Sys2Proof Sys2Proof.Safety

/-! ## Frames of the scheduler -/

/-- A repetition changes no register outside the timer, the repetition count, the radio registers, the counters,
the requests and the draws. -/
theorem repetition_frame {s t : State} (h : repetition s = .next t) :
    t = { s with
      sched := { s.sched with rep := t.sched.rep }, timer := ⟨true, BitVec.ofNat 32 (period s)⟩, radio := t.radio,
      cnt := t.cnt, requests := t.requests, draws := t.draws } := by
  rcases repetition_eq_next.1 h with ⟨_, _, rfl⟩ | ⟨_, rfl⟩ <;> rfl

/-- The Sending case of `dispatch()` leaves the frame buffer, the rings and the configuration alone. -/
theorem dispatchSending_frame {s t : State} (h : dispatchSending s = .next t) :
    t = { s with
      sched := t.sched, timer := t.timer, radio := t.radio, cnt := t.cnt, requests := t.requests,
      draws := t.draws } := by
  rcases dispatchSending_eq_next.1 h with ⟨_, h⟩ | ⟨_, rfl⟩
  · exact (repetition_frame h).trans (by rw [repetition_frame h])
  · rfl

/-- `start_send` also writes the frame buffer, and nothing further. -/
theorem startSend_frame {p : List Byte} {s t : State} (h : startSend p s = .next t) :
    t = { s with
      frameBuf := s.frameBuf.writeBytes 0 (pack (frame s.build.preamble s.cfg.codec p)), sched := t.sched,
      timer := t.timer, radio := t.radio, cnt := t.cnt, requests := t.requests, draws := t.draws } :=
  dispatchSending_frame (startSend_eq_next.1 h).2

/-- Idle entry changes what `start_send` does and the TXQ read cursor, and nothing further. -/
theorem idleEntry_frame {s t : State} (h : idleEntry s = .next t) :
    t = { s with
      frameBuf := t.frameBuf, sched := t.sched, timer := t.timer, radio := t.radio,
      txq := { s.txq with r := t.txq.r }, cnt := t.cnt, requests := t.requests, draws := t.draws } := by
  rcases idleEntry_eq_next.1 h with ⟨_, rfl⟩ | ⟨_, _, h⟩
  · rfl
  · rw [startSend_frame h]; rfl

/-- An expiry's dispatch changes what idle entry does, and nothing further. -/
theorem dispatch_frame {s t : State} (h : dispatch s = .next t) :
    t = { s with
      frameBuf := t.frameBuf, sched := t.sched, timer := t.timer, radio := t.radio,
      txq := { s.txq with r := t.txq.r }, cnt := t.cnt, requests := t.requests, draws := t.draws } := by
  rcases dispatch_eq_next.1 h with ⟨_, h⟩ | ⟨_, h⟩ | ⟨_, rfl⟩
  · rw [dispatchSending_frame h]
  · rw [idleEntry_frame h]; rfl
  · rfl

/-- A tick changes what a dispatch does, and nothing further. -/
theorem countdown_frame {s t : State} (h : countdown s = .next t) :
    t = { s with
      frameBuf := t.frameBuf, sched := t.sched, timer := t.timer, radio := t.radio,
      txq := { s.txq with r := t.txq.r }, cnt := t.cnt, requests := t.requests, draws := t.draws } := by
  rcases countdown_eq_next.1 h with ⟨_, rfl⟩ | ⟨_, _, rfl⟩ | ⟨_, _, h⟩
  · rfl
  · rfl
  · rw [dispatch_frame h]; rfl

/-- The return to receive mode, field by field (40_scheduler.md R116). -/
theorem restoreRx_eq_restored (s : State) : restoreRx s = restored s := by
  unfold restoreRx restored
  cases h : s.answers.rx <;> simp [h] <;> rfl

/-- The retry of a tick, field by field (40_scheduler.md R104). -/
theorem retryRx_eq_afterRetry (s : State) : retryRx s = afterRetry s := by
  unfold retryRx afterRetry; rw [restoreRx_eq_restored]

/-! What a retried return to receive mode leaves alone. -/

@[simp] theorem afterRetry_build (s : State) : (afterRetry s).build = s.build := by
  unfold afterRetry; split <;> rfl
@[simp] theorem afterRetry_cfg (s : State) : (afterRetry s).cfg = s.cfg := by
  unfold afterRetry; split <;> rfl
@[simp] theorem afterRetry_sched (s : State) : (afterRetry s).sched = s.sched := by
  unfold afterRetry; split <;> rfl
@[simp] theorem afterRetry_timer (s : State) : (afterRetry s).timer = s.timer := by
  unfold afterRetry; split <;> rfl
@[simp] theorem afterRetry_frameBuf (s : State) : (afterRetry s).frameBuf = s.frameBuf := by
  unfold afterRetry; split <;> rfl
@[simp] theorem afterRetry_stage (s : State) : (afterRetry s).stage = s.stage := by
  unfold afterRetry; split <;> rfl
@[simp] theorem afterRetry_txq (s : State) : (afterRetry s).txq = s.txq := by
  unfold afterRetry; split <;> rfl
@[simp] theorem afterRetry_txqReserved (s : State) : (afterRetry s).txqReserved = s.txqReserved := by
  unfold afterRetry; split <;> rfl
@[simp] theorem afterRetry_rxq (s : State) : (afterRetry s).rxq = s.rxq := by
  unfold afterRetry; split <;> rfl
@[simp] theorem afterRetry_rxqOwned (s : State) : (afterRetry s).rxqOwned = s.rxqOwned := by
  unfold afterRetry; split <;> rfl
@[simp] theorem afterRetry_rxqOslot (s : State) : (afterRetry s).rxqOslot = s.rxqOslot := by
  unfold afterRetry; split <;> rfl
@[simp] theorem afterRetry_fault (s : State) : (afterRetry s).fault = s.fault := by
  unfold afterRetry; split <;> rfl
@[simp] theorem afterRetry_rsp (s : State) : (afterRetry s).rsp = s.rsp := by
  unfold afterRetry; split <;> rfl
@[simp] theorem afterRetry_irq (s : State) : (afterRetry s).irq = s.irq := by
  unfold afterRetry; split <;> rfl
@[simp] theorem afterRetry_answers (s : State) : (afterRetry s).answers = s.answers := by
  unfold afterRetry; split <;> rfl
@[simp] theorem afterRetry_inputs (s : State) : (afterRetry s).inputs = s.inputs := by
  unfold afterRetry; split <;> rfl
@[simp] theorem afterRetry_draws (s : State) : (afterRetry s).draws = s.draws := by
  unfold afterRetry; split <;> rfl

/-! ## Rings just created -/

/-- A chain of zeros ends in zero. -/
theorem chainEnd_clearedChain (b : Config.Build) : chainEnd b (clearedChain b) = 0 := by
  unfold chainEnd clearedChain
  cases b.cdcMode
  · rfl
  · simp only [List.getD_eq_getElem?_getD, List.getElem?_replicate]; split <;> rfl

/-- A ring just created is empty from the consumer side (42_ring.md R180). -/
theorem countC_ringCreate (b : Config.Build) (e : BitVec 8) (q : Ring) : countC b (ringCreate b e q) = 0 := by
  have h : writeView b (ringCreate b e q) = 0 := by
    unfold writeView
    cases hm : b.cdcMode
    · rfl
    · show grayToBin (chainEnd b (clearedChain b)) = 0
      rw [chainEnd_clearedChain]; decide
  unfold countC
  rw [h]
  show cursorDist _ 0 0 = 0
  simp [cursorDist]

/-! ## The ways an operation can end -/

/-- What an accepted operation does: its own rule, once the prologue or the gate has let it through. -/
def Acts (i : Instr) (s t : State) : Prop :=
  match i with
  | .nop => t = respond false 0 s
  | .cfg ident n plen codec =>
    s.fault.faulted = false ∧ cfgCheck ident n plen codec s = none ∧
      t = respond false 0 (count .txqEmptyPull (restoreRx (cfgApply ident n plen codec s)))
  | .stageWr off data =>
    Ready s ∧ off.toNat < s.cfg.plen.toNat ∧ off.toNat < s.build.payloadMax.toNat ∧
      t = respond false 0 (setStage (s.stage.write off.toNat data) s)
  | .send =>
    Ready s ∧ ((t = respond true 0 s ∧ (s.sched.state ≠ .idle ∨ s.sched.valid = true)) ∨
      (s.sched.state = .idle ∧ s.sched.valid = false ∧ s.cfg.plen.toNat ≤ s.build.payloadMax.toNat ∧
        ∃ u, startSend (s.stage.readBytes 0 s.cfg.plen.toNat s.draws).1
          (setDraws (s.stage.readBytes 0 s.cfg.plen.toNat s.draws).2 s) = .next u ∧ t = respond false 0 u))
  | .txqReserve =>
    Ready s ∧ s.txqReserved = false ∧
      ((fullP s.build s.txq = true ∧ t = respond true 0 (count .txqFull s)) ∨
        (fullP s.build s.txq = false ∧ t = respond false (s.txq.w.setWidth 32) (setTxqReserved true s)))
  | .txqWr off data =>
    Ready s ∧ s.txqReserved = true ∧ off.toNat < s.txq.e.toNat ∧ txqWrAddr off s < s.build.ringBytes.toNat ∧
      t = respond false 0 (setTxq { s.txq with mem := s.txq.mem.write (txqWrAddr off s) data } s)
  | .txqCommit =>
    Ready s ∧ s.txqReserved = true ∧ t = respond false 0 (txqPublish (setTxqReserved false s))
  | .txqAbandon => Ready s ∧ s.txqReserved = true ∧ t = respond false 0 (setTxqReserved false s)
  | .txqCount => Ready s ∧ t = respond false (BitVec.ofNat 32 (countP s.build s.txq)) s
  | .rxqPop =>
    Ready s ∧ ((emptyC s.build s.rxq = true ∧ t = respond true 0 (count .rxqEmpty (setRxqOwned false s))) ∨
      (emptyC s.build s.rxq = false ∧ t = respond false (s.rxq.r.setWidth 32) (rxqTake (setRxqOwned false s))))
  | .rxqRd off =>
    Ready s ∧ s.rxqOwned = true ∧ off.toNat < s.rxq.e.toNat ∧ rxqRdAddr off s < s.build.ringBytes.toNat ∧
      t = respond false (((s.rxq.mem.readBytes (rxqRdAddr off s) 1 s.draws).1.headD 0).setWidth 32)
        (setDraws (s.rxq.mem.readBytes (rxqRdAddr off s) 1 s.draws).2 s)
  | .rxqCount => Ready s ∧ t = respond false (BitVec.ofNat 32 (countC s.build s.rxq)) s
  | .rdcsr addr => s.fault.faulted = false ∧ ∃ v, csrValue addr s = some v ∧ t = respond false v s
  | .clrcnt => s.fault.faulted = false ∧ t = respond false 0 (setCnt .zero s)
  | .evRxEom _ bits => Ready s ∧ receive (decodeFrame s.cfg bits) s = .next t
  | .evTxEmpty => Ready s ∧ t = restored s
  | .evTxReady => Ready s ∧ t = s
  | .evTxError => Ready s ∧ t = restored (count .txError s)
  | .tick => Ready s ∧ countdown (afterRetry s) = .next t

/-- How an operation can end: an event or tick is ignored (R88), the fault state answers a command (R242), a command
faults (R241), or the operation acts. -/
inductive Ends (i : Instr) (s t : State) : Prop where
  | ignored (h : opcodeOfInstr i = none) (hs : s.cfg.configured = false ∨ s.fault.faulted = true) (ht : t = s)
  | refused (op : Opcode) (h : opcodeOfInstr i = some op) (hs : s.fault.faulted = true)
      (ht : t = respond t.rsp.fail t.rsp.data s)
  | faulted (op : Opcode) (c : Cause) (h : opcodeOfInstr i = some op) (hs : s.fault.faulted = false)
      (ht : t = raiseFault c (opcodeCode op) s)
  | acted (h : Acts i s t)

/-- A command ends in one of the four ways, once its own rule does. -/
theorem ends_of_command {i : Instr} {op : Opcode} {fa : State → State} {body : State → Result State} {s t : State}
    (hop : opcodeOfInstr i = some op) (hfa : ∀ u, fa u = respond (fa u).rsp.fail (fa u).rsp.data u)
    (hbody : s.fault.faulted = false → (needsConfig op = true → s.cfg.configured = true) →
      body s = .next t → Ends i s t)
    (h : command op fa body s = .next t) : Ends i s t := by
  rcases command_eq_next.1 h with ⟨hf, rfl⟩ | ⟨hf, _, _, rfl⟩ | ⟨hf, hc, hb⟩
  · exact .refused op hop hf (hfa s)
  · exact .faulted op .notConfigured hop hf rfl
  · exact hbody hf hc hb

/-- An event or tick ends in one of the four ways, once its own rule acts. -/
theorem ends_of_gated {i : Instr} {body : State → Result State} {s t : State} (hop : opcodeOfInstr i = none)
    (hbody : Ready s → body s = .next t → Acts i s t) (h : gated body s = .next t) : Ends i s t := by
  rcases gated_eq_next.1 h with ⟨hs, rfl⟩ | ⟨hc, hf, hb⟩
  · exact .ignored hop hs rfl
  · exact .acted (hbody ⟨hc, hf⟩ hb)

theorem refuseFaulted_eq (u : State) : refuseFaulted u = respond (refuseFaulted u).rsp.fail
    (refuseFaulted u).rsp.data u := rfl

theorem rdcsrFaulted_eq (addr : BitVec 8) (u : State) : rdcsrFaulted addr u =
    respond (rdcsrFaulted addr u).rsp.fail (rdcsrFaulted addr u).rsp.data u := by
  unfold rdcsrFaulted; split <;> rfl

/-- Whatever an operation answers, it ended in one of the four ways. -/
theorem exec_ends {i : Instr} {s t : State} (h : exec i s = .next t) : Ends i s t := by
  cases i with
  | nop =>
    change execNop s = _ at h
    unfold execNop at h
    refine ends_of_command (op := .nop) (fa := respond false 0) rfl (fun _ => rfl) (fun _ _ hb => ?_) h
    exact .acted (Host.Outcome.next.inj hb).symm
  | cfg ident n plen codec =>
    change execCfg ident n plen codec s = _ at h
    unfold execCfg at h
    refine ends_of_command (op := .cfg) rfl refuseFaulted_eq (fun hf _ hb => ?_) h
    split at hb
    · next c _ => exact .faulted .cfg c rfl hf (Host.Outcome.next.inj hb).symm
    · next hc =>
      have hi : idleEntry (restoreRx (cfgApply ident n plen codec s)) =
          .next (count .txqEmptyPull (restoreRx (cfgApply ident n plen codec s))) := by
        refine idleEntry_eq_next.2 (.inl ⟨?_, rfl⟩)
        simp only [restoreRx_build, restoreRx_txq]
        exact countC_ringCreate s.build plen s.txq
      rw [hi] at hb
      exact .acted ⟨hf, hc, (Host.Outcome.next.inj hb).symm⟩
  | stageWr off data =>
    change execStageWr off data s = _ at h
    unfold execStageWr at h
    refine ends_of_command (op := .stageWr) rfl refuseFaulted_eq (fun hf hc hb => ?_) h
    split at hb
    · next ho =>
      obtain ⟨a, ha, hb⟩ := andThen_eq_next.1 hb
      obtain ⟨hle, rfl⟩ := memWrite_eq_next.1 ha
      simp only [memSize, List.length_singleton] at hle
      exact .acted ⟨⟨hc rfl, hf⟩, by simpa [offsetInRange] using ho, by omega, (Host.Outcome.next.inj hb).symm⟩
    · exact .faulted .stageWr .offsetRange rfl hf (Host.Outcome.next.inj hb).symm
  | send =>
    change execSend s = _ at h
    unfold execSend at h
    refine ends_of_command (op := .send) rfl refuseFaulted_eq (fun hf hc hb => ?_) h
    split at hb
    · next ho => exact .acted ⟨⟨hc rfl, hf⟩, .inl ⟨(Host.Outcome.next.inj hb).symm, ho⟩⟩
    · next ho =>
      obtain ⟨r, hr, hb⟩ := andThen_eq_next.1 hb
      obtain ⟨hle, rfl⟩ := memRead_eq_next.1 hr
      obtain ⟨u, hu, hb⟩ := andThen_eq_next.1 hb
      simp only [memSize, Nat.zero_add] at hle
      refine .acted ⟨⟨hc rfl, hf⟩, .inr ⟨?_, ?_, hle, u, hu, (Host.Outcome.next.inj hb).symm⟩⟩
      · by_contra hx; exact ho (.inl hx)
      · by_contra hx; exact ho (.inr (by simpa using hx))
  | txqReserve =>
    change execTxqReserve s = _ at h
    unfold execTxqReserve at h
    refine ends_of_command (op := .txqReserve) rfl refuseFaulted_eq (fun hf hc hb => ?_) h
    split at hb
    · exact .faulted .txqReserve .txqDoubleReserve rfl hf (Host.Outcome.next.inj hb).symm
    · next hr =>
      refine .acted ⟨⟨hc rfl, hf⟩, by simpa using hr, ?_⟩
      split at hb
      · next h2 => exact .inl ⟨h2, (Host.Outcome.next.inj hb).symm⟩
      · next h2 => exact .inr ⟨by simpa using h2, (Host.Outcome.next.inj hb).symm⟩
  | txqWr off data =>
    change execTxqWr off data s = _ at h
    unfold execTxqWr at h
    refine ends_of_command (op := .txqWr) rfl refuseFaulted_eq (fun hf hc hb => ?_) h
    split at hb
    · exact .faulted .txqWr .txqNoReservation rfl hf (Host.Outcome.next.inj hb).symm
    · next hr =>
      split at hb
      · next ho =>
        obtain ⟨a, ha, hb⟩ := andThen_eq_next.1 hb
        obtain ⟨hle, rfl⟩ := memWrite_eq_next.1 ha
        simp only [memSize, List.length_singleton] at hle
        exact .acted ⟨⟨hc rfl, hf⟩, by simpa using hr, by simpa [offsetInRange] using ho, by omega,
          (Host.Outcome.next.inj hb).symm⟩
      · exact .faulted .txqWr .offsetRange rfl hf (Host.Outcome.next.inj hb).symm
  | txqCommit =>
    change execTxqCommit s = _ at h
    unfold execTxqCommit at h
    refine ends_of_command (op := .txqCommit) rfl refuseFaulted_eq (fun hf hc hb => ?_) h
    split at hb
    · exact .faulted .txqCommit .txqNoReservation rfl hf (Host.Outcome.next.inj hb).symm
    · next hr => exact .acted ⟨⟨hc rfl, hf⟩, by simpa using hr, (Host.Outcome.next.inj hb).symm⟩
  | txqAbandon =>
    change execTxqAbandon s = _ at h
    unfold execTxqAbandon at h
    refine ends_of_command (op := .txqAbandon) rfl refuseFaulted_eq (fun hf hc hb => ?_) h
    split at hb
    · exact .faulted .txqAbandon .txqNoReservation rfl hf (Host.Outcome.next.inj hb).symm
    · next hr => exact .acted ⟨⟨hc rfl, hf⟩, by simpa using hr, (Host.Outcome.next.inj hb).symm⟩
  | txqCount =>
    change execTxqCount s = _ at h
    unfold execTxqCount at h
    refine ends_of_command (op := .txqCount) rfl refuseFaulted_eq (fun hf hc hb => ?_) h
    exact .acted ⟨⟨hc rfl, hf⟩, (Host.Outcome.next.inj hb).symm⟩
  | rxqPop =>
    change execRxqPop s = _ at h
    unfold execRxqPop at h
    refine ends_of_command (op := .rxqPop) rfl refuseFaulted_eq (fun hf hc hb => ?_) h
    refine .acted ⟨⟨hc rfl, hf⟩, ?_⟩
    dsimp only at hb
    split at hb
    · next h2 => exact .inl ⟨h2, (Host.Outcome.next.inj hb).symm⟩
    · next h2 => exact .inr ⟨by simpa using h2, (Host.Outcome.next.inj hb).symm⟩
  | rxqRd off =>
    change execRxqRd off s = _ at h
    unfold execRxqRd at h
    refine ends_of_command (op := .rxqRd) rfl refuseFaulted_eq (fun hf hc hb => ?_) h
    split at hb
    · exact .faulted .rxqRd .rxqNotOwned rfl hf (Host.Outcome.next.inj hb).symm
    · next hr =>
      split at hb
      · next ho =>
        obtain ⟨a, ha, hb⟩ := andThen_eq_next.1 hb
        obtain ⟨hle, rfl⟩ := memRead_eq_next.1 ha
        simp only [memSize] at hle
        exact .acted ⟨⟨hc rfl, hf⟩, by simpa using hr, by simpa [offsetInRange] using ho, by omega,
          (Host.Outcome.next.inj hb).symm⟩
      · exact .faulted .rxqRd .offsetRange rfl hf (Host.Outcome.next.inj hb).symm
  | rxqCount =>
    change execRxqCount s = _ at h
    unfold execRxqCount at h
    refine ends_of_command (op := .rxqCount) rfl refuseFaulted_eq (fun hf hc hb => ?_) h
    exact .acted ⟨⟨hc rfl, hf⟩, (Host.Outcome.next.inj hb).symm⟩
  | rdcsr addr =>
    change execRdcsr addr s = _ at h
    unfold execRdcsr at h
    refine ends_of_command (op := .rdcsr) rfl (rdcsrFaulted_eq addr) (fun hf _ hb => ?_) h
    split at hb
    · next v hv => exact .acted ⟨hf, v, hv, (Host.Outcome.next.inj hb).symm⟩
    · exact .faulted .rdcsr .illegalCsr rfl hf (Host.Outcome.next.inj hb).symm
  | clrcnt =>
    change execClrcnt s = _ at h
    unfold execClrcnt at h
    refine ends_of_command (op := .clrcnt) rfl refuseFaulted_eq (fun hf _ hb => ?_) h
    exact .acted ⟨hf, (Host.Outcome.next.inj hb).symm⟩
  | evRxEom len bits =>
    change execEvRxEom bits s = _ at h
    unfold execEvRxEom at h
    exact ends_of_gated rfl (fun hr hb => ⟨hr, hb⟩) h
  | evTxEmpty =>
    change execEvTxEmpty s = _ at h
    unfold execEvTxEmpty at h
    refine ends_of_gated rfl (fun hr hb => ⟨hr, ?_⟩) h
    rw [← restoreRx_eq_restored]; exact (Host.Outcome.next.inj hb).symm
  | evTxReady =>
    change execEvTxReady s = _ at h
    unfold execEvTxReady at h
    exact ends_of_gated rfl (fun hr hb => ⟨hr, (Host.Outcome.next.inj hb).symm⟩) h
  | evTxError =>
    change execEvTxError s = _ at h
    unfold execEvTxError at h
    refine ends_of_gated rfl (fun hr hb => ⟨hr, ?_⟩) h
    rw [← restoreRx_eq_restored]; exact (Host.Outcome.next.inj hb).symm
  | tick =>
    change execTick s = _ at h
    unfold execTick at h
    refine ends_of_gated rfl (fun hr hb => ⟨hr, ?_⟩) h
    rw [← retryRx_eq_afterRetry]; exact hb

end Sys2Proof.Machine
end

