-- ==== Sys2Proof/Laws/Encoding.lean ====
section
/-! SUPPORT. The bits of the five command formats and of an event word, and what the decoder's field readers find in
them (spec 30_encoding.md R81, R86). -/

namespace Sys2Proof

/-- Format C, bit by bit. -/
theorem formatC_getLsbD (op : Opcode) (c : BitVec 1) (p n i : BitVec 8) (k : Nat) :
    (formatC op c p n i).getLsbD k =
      if k < 8 then i.getLsbD k else if k < 16 then n.getLsbD (k - 8) else if k < 24 then p.getLsbD (k - 16)
      else if k < 25 then c.getLsbD (k - 24) else if k < 27 then false else (opcodeCode op).getLsbD (k - 27) := by
  unfold formatC
  erw [BitVec.getLsbD_append, BitVec.getLsbD_append, BitVec.getLsbD_append, BitVec.getLsbD_append,
    BitVec.getLsbD_append]
  grind

/-- Format B, bit by bit. -/
theorem formatB_getLsbD (op : Opcode) (o d : BitVec 8) (k : Nat) :
    (formatB op o d).getLsbD k =
      if k < 8 then d.getLsbD k else if k < 16 then o.getLsbD (k - 8)
      else if k < 27 then false else (opcodeCode op).getLsbD (k - 27) := by
  unfold formatB
  erw [BitVec.getLsbD_append, BitVec.getLsbD_append, BitVec.getLsbD_append]
  grind

/-- Format O, bit by bit. -/
theorem formatO_getLsbD (op : Opcode) (o : BitVec 8) (k : Nat) :
    (formatO op o).getLsbD k =
      if k < 8 then false else if k < 16 then o.getLsbD (k - 8)
      else if k < 27 then false else (opcodeCode op).getLsbD (k - 27) := by
  unfold formatO
  erw [BitVec.getLsbD_append, BitVec.getLsbD_append, BitVec.getLsbD_append]
  grind

/-- Format A, bit by bit. -/
theorem formatA_getLsbD (op : Opcode) (a : BitVec 8) (k : Nat) :
    (formatA op a).getLsbD k =
      if k < 8 then a.getLsbD k else if k < 27 then false else (opcodeCode op).getLsbD (k - 27) := by
  unfold formatA
  erw [BitVec.getLsbD_append, BitVec.getLsbD_append]
  grind

/-- Format Z, bit by bit. -/
theorem formatZ_getLsbD (op : Opcode) (k : Nat) :
    (formatZ op).getLsbD k = if k < 27 then false else (opcodeCode op).getLsbD (k - 27) := by
  unfold formatZ
  erw [BitVec.getLsbD_append]
  grind

/-- An event word, bit by bit. -/
theorem eventWord_getLsbD (c : BitVec 4) (l : BitVec 16) (k : Nat) :
    (eventWord c l).getLsbD k =
      if k < 16 then l.getLsbD k else if k < 28 then false else c.getLsbD (k - 28) := by
  unfold eventWord
  erw [BitVec.getLsbD_append, BitVec.getLsbD_append]
  grind

/-- Every opcode is the one its number names. -/
@[simp] theorem opcodeOf_opcodeCode (op : Opcode) : opcodeOf (opcodeCode op) = some op := by cases op <;> rfl

/-- A number names an opcode exactly when it is the opcode's own. -/
theorem opcodeOf_eq_some {c : BitVec 5} {op : Opcode} : opcodeOf c = some op ↔ c = opcodeCode op := by
  constructor
  · revert c op; decide +revert
  · rintro rfl; simp

/-- The four event codes that name an operation (R86); every other code has none (R87). -/
theorem decodeEvent_eq_ok {w : Word} {bits : List Bool} {i : Instr} : decodeEvent w bits = .ok i ↔
    ((evField w).toNat = 2 ∧ rxOperandOk (lenField w) bits = true ∧ i = .evRxEom (lenField w) bits) ∨
    ((evField w).toNat = 3 ∧ i = .evTxEmpty) ∨ ((evField w).toNat = 4 ∧ i = .evTxReady) ∨
    ((evField w).toNat = 5 ∧ i = .evTxError) := by
  unfold decodeEvent
  generalize (evField w).toNat = v
  constructor
  · intro h
    split at h
    · cases h
    · split at h
      · next hv => exact .inl ⟨rfl, hv, (Except.ok.inj h).symm⟩
      · cases h
    · exact .inr (.inl ⟨rfl, (Except.ok.inj h).symm⟩)
    · exact .inr (.inr (.inl ⟨rfl, (Except.ok.inj h).symm⟩))
    · exact .inr (.inr (.inr ⟨rfl, (Except.ok.inj h).symm⟩))
    · cases h
  · rintro (⟨rfl, h, rfl⟩ | ⟨rfl, rfl⟩ | ⟨rfl, rfl⟩ | ⟨rfl, rfl⟩)
    · simp [h]
    all_goals rfl

end Sys2Proof
end

