-- ==== Sys2Proof/Laws/PerInstr.lean ====
section
/-! SUPPORT. A statement about every operation as syntax, one lemma per constructor of Instr: its encoding has
exactly its row's opcode and every reserved bit 0, so that the port reads it as legal (spec 30_encoding.md R81, R84,
R86). -/

namespace Sys2Proof.Laws

/-- The operation's port input is legal, with the row's own opcode or event code (R81, R86). -/
def Legal.Statement : Instr → Prop
  | .nop => encode .nop = .command 0x00000000
  | .cfg i n plen codec => ∃ w, encode (.cfg i n plen codec) = .command w ∧ w &&& opcodeMask .cfg = opcodeMatch .cfg
  | .stageWr off data => ∃ w, encode (.stageWr off data) = .command w ∧
      w &&& opcodeMask .stageWr = opcodeMatch .stageWr
  | .send => encode .send = .command 0x18000000
  | .txqReserve => encode .txqReserve = .command 0x20000000
  | .txqWr off data => ∃ w, encode (.txqWr off data) = .command w ∧ w &&& opcodeMask .txqWr = opcodeMatch .txqWr
  | .txqCommit => encode .txqCommit = .command 0x30000000
  | .txqAbandon => encode .txqAbandon = .command 0x38000000
  | .txqCount => encode .txqCount = .command 0x40000000
  | .rxqPop => encode .rxqPop = .command 0x48000000
  | .rxqRd off => ∃ w, encode (.rxqRd off) = .command w ∧ w &&& opcodeMask .rxqRd = opcodeMatch .rxqRd
  | .rxqCount => encode .rxqCount = .command 0x58000000
  | .rdcsr addr => ∃ w, encode (.rdcsr addr) = .command w ∧ w &&& opcodeMask .rdcsr = opcodeMatch .rdcsr
  | .clrcnt => encode .clrcnt = .command 0x68000000
  | .evRxEom len bits => ∃ w, encode (.evRxEom len bits) = .event w bits ∧ evField w = 2 ∧ lenField w = len
  | .evTxEmpty => encode .evTxEmpty = .event 0x30000000 []
  | .evTxReady => encode .evTxReady = .event 0x40000000 []
  | .evTxError => encode .evTxError = .event 0x50000000 []
  | .tick => encode .tick = .tick

theorem Legal.nop : Legal.Statement .nop := by unfold Legal.Statement; decide

theorem Legal.cfg (i n plen : BitVec 8) (codec : LineCode) : Legal.Statement (.cfg i n plen codec) := by
  refine ⟨_, rfl, BitVec.eq_of_getLsbD_eq fun k hk => ?_⟩
  rw [BitVec.getLsbD_and, formatC_getLsbD]
  interval_cases k <;> simp [opcodeMask, opcodeMatch, opcodeCode]

theorem Legal.stageWr (off : BitVec 8) (data : Byte) : Legal.Statement (.stageWr off data) := by
  refine ⟨_, rfl, BitVec.eq_of_getLsbD_eq fun k hk => ?_⟩
  rw [BitVec.getLsbD_and, formatB_getLsbD]
  interval_cases k <;> simp [opcodeMask, opcodeMatch, opcodeCode]

theorem Legal.send : Legal.Statement .send := by unfold Legal.Statement; decide
theorem Legal.txqReserve : Legal.Statement .txqReserve := by unfold Legal.Statement; decide

theorem Legal.txqWr (off : BitVec 8) (data : Byte) : Legal.Statement (.txqWr off data) := by
  refine ⟨_, rfl, BitVec.eq_of_getLsbD_eq fun k hk => ?_⟩
  rw [BitVec.getLsbD_and, formatB_getLsbD]
  interval_cases k <;> simp [opcodeMask, opcodeMatch, opcodeCode]

theorem Legal.txqCommit : Legal.Statement .txqCommit := by unfold Legal.Statement; decide
theorem Legal.txqAbandon : Legal.Statement .txqAbandon := by unfold Legal.Statement; decide
theorem Legal.txqCount : Legal.Statement .txqCount := by unfold Legal.Statement; decide
theorem Legal.rxqPop : Legal.Statement .rxqPop := by unfold Legal.Statement; decide

theorem Legal.rxqRd (off : BitVec 8) : Legal.Statement (.rxqRd off) := by
  refine ⟨_, rfl, BitVec.eq_of_getLsbD_eq fun k hk => ?_⟩
  rw [BitVec.getLsbD_and, formatO_getLsbD]
  interval_cases k <;> simp [opcodeMask, opcodeMatch, opcodeCode]

theorem Legal.rxqCount : Legal.Statement .rxqCount := by unfold Legal.Statement; decide

theorem Legal.rdcsr (addr : BitVec 8) : Legal.Statement (.rdcsr addr) := by
  refine ⟨_, rfl, BitVec.eq_of_getLsbD_eq fun k hk => ?_⟩
  rw [BitVec.getLsbD_and, formatA_getLsbD]
  interval_cases k <;> simp [opcodeMask, opcodeMatch, opcodeCode]

theorem Legal.clrcnt : Legal.Statement .clrcnt := by unfold Legal.Statement; decide

theorem Legal.evRxEom (len : BitVec 16) (bits : List Bool) : Legal.Statement (.evRxEom len bits) := by
  refine ⟨_, rfl, ?_, ?_⟩ <;>
    refine BitVec.eq_of_getLsbD_eq fun k hk => ?_
  · unfold evField
    rw [BitVec.getLsbD_extractLsb', eventWord_getLsbD]
    interval_cases k <;> simp
  · unfold lenField
    rw [BitVec.getLsbD_extractLsb', eventWord_getLsbD]
    simp [hk]

theorem Legal.evTxEmpty : Legal.Statement .evTxEmpty := by unfold Legal.Statement; decide
theorem Legal.evTxReady : Legal.Statement .evTxReady := by unfold Legal.Statement; decide
theorem Legal.evTxError : Legal.Statement .evTxError := by unfold Legal.Statement; decide
theorem Legal.tick : Legal.Statement .tick := rfl

end Sys2Proof.Laws
end

