-- ==== Sys2Proof/Laws/Ring.lean ====
section
/-! SUPPORT. The arithmetic of the cursors (spec 42_ring.md R181, R183), and what each ring operation does to the
views of the other side (R199 to R202). -/

namespace Sys2Proof.Machine

open Sys2Proof Sys2Proof.Safety

variable {b : Config.Build} {q : Ring}

/-! ## Cursor arithmetic -/

/-- A count without the modulus: the cursors are slots (R181). -/
theorem cursorDist_eq {n x y : BitVec 16} (hx : x.toNat < n.toNat) (hy : y.toNat < n.toNat) :
    cursorDist n x y =
      if y.toNat ≤ x.toNat then x.toNat - y.toNat else x.toNat + n.toNat - y.toNat := by
  unfold cursorDist
  split
  · rw [Int.emod_eq_of_lt (by omega) (by omega)]; omega
  · rw [← Int.add_emod_right, Int.emod_eq_of_lt (by omega) (by omega)]; omega

/-- The slot after a slot, without the modulus. -/
theorem nextSlot_eq {x : BitVec 16} (hx : x.toNat < q.n.toNat) :
    (nextSlot q x).toNat = if x.toNat + 1 = q.n.toNat then 0 else x.toNat + 1 := by
  have := q.n.isLt
  unfold nextSlot
  split
  · next h => simp [h]
  · rw [Nat.mod_eq_of_lt (by omega), BitVec.toNat_ofNat, Nat.mod_eq_of_lt (by omega)]

theorem nextSlot_lt {x : BitVec 16} (hx : x.toNat < q.n.toNat) : (nextSlot q x).toNat < q.n.toNat := by
  rw [nextSlot_eq hx]; split <;> omega

/-! ## Gray code (R201) -/

/-- The first `n` terms of `gray_to_bin` on a Gray code leave the value and its shift by `n`. -/
theorem grayToBin_terms (v : BitVec 16) (n : Nat) :
    (List.range n).foldl (fun acc k => acc ^^^ (binToGray v >>> k)) 0 = v ^^^ (v >>> n) := by
  induction n with
  | zero => simp
  | succ n ih =>
    rw [List.range_succ, List.foldl_append, ih, List.foldl_cons, List.foldl_nil, binToGray,
      BitVec.ushiftRight_xor_distrib, BitVec.xor_assoc, ← BitVec.xor_assoc (v >>> n), BitVec.xor_self,
      BitVec.zero_xor, ← BitVec.shiftRight_add, Nat.add_comm 1 n]

/-- `gray_to_bin` undoes `bin_to_gray`. -/
theorem grayToBin_binToGray (v : BitVec 16) : grayToBin (binToGray v) = v := by
  have h : v >>> 16 = 0#16 := BitVec.ushiftRight_eq_zero (Nat.le_refl _)
  have := grayToBin_terms v 16
  rwa [h, BitVec.xor_zero] at this

/-! ## The views -/

/-- What the producer side has seen or will see of the read cursor, newest first. -/
def readHistory (q : Ring) : List (BitVec 16) := q.r :: q.rsync.map grayToBin

/-- What the consumer side has seen or will see of the write cursor, newest first. -/
def writeHistory (q : Ring) : List (BitVec 16) := q.w :: q.wsync.map grayToBin

/-- The end of a chain is the last of the values it holds, the cursor itself where there is no chain. -/
theorem view_eq_getLast {v : BitVec 16} {chain : List (BitVec 16)} (hb : b.Valid)
    (hl : chain.length = (clearedChain b).length) :
    (match b.cdcMode with
      | .sync => v
      | .gray => grayToBin (chainEnd b chain)) = (v :: chain.map grayToBin).getLast (by simp) := by
  unfold clearedChain at hl
  cases hm : b.cdcMode with
  | sync => simp [hm] at hl; simp [hl]
  | gray =>
    have h2 := hb.2.2.2 hm
    simp [hm] at hl
    have hne : chain ≠ [] := by intro h; simp [h] at hl; omega
    rw [List.getLast_cons (by simpa using hne), List.getLast_map (by simpa using hne)]
    simp only [chainEnd, List.getLast_eq_getElem, hl]
    rw [List.getD_eq_getElem?_getD, List.getElem?_eq_getElem (by omega), Option.getD_some]

theorem readView_eq_getLast (hb : b.Valid) (hl : q.rsync.length = (clearedChain b).length) :
    readView b q = (readHistory q).getLast (by simp [readHistory]) := by
  unfold readView readHistory
  exact view_eq_getLast hb hl

theorem writeView_eq_getLast (hb : b.Valid) (hl : q.wsync.length = (clearedChain b).length) :
    writeView b q = (writeHistory q).getLast (by simp [writeHistory]) := by
  unfold writeView writeHistory
  exact view_eq_getLast hb hl

/-- In a list where every earlier element is below every later one, every element is below the last. -/
theorem le_getLast_of_pairwise {α : Type} (f : α → Nat) : ∀ {l : List α} (h : l ≠ []),
    l.Pairwise (fun x y => f x ≤ f y) → ∀ x ∈ l, f x ≤ f (l.getLast h) := by
  intro l h hp x hx
  rw [← List.dropLast_append_getLast h] at hp hx
  rcases List.mem_append.1 hx with hx | hx
  · exact (List.pairwise_append.1 hp).2.2 x hx _ (by simp)
  · simp at hx; simp [hx]

/-- What the ring laws need: a legal build, the chains' lengths, the cursors as slots, and the lag (R198, R202). -/
structure RingOk (b : Config.Build) (q : Ring) : Prop where
  build : b.Valid
  rsyncLen : q.rsync.length = (clearedChain b).length
  wsyncLen : q.wsync.length = (clearedChain b).length
  wBound : q.w.toNat < q.n.toNat
  rBound : q.r.toNat < q.n.toNat
  lag : ViewsLag q

namespace RingOk

theorem readHistory_lt (h : RingOk b q) : ∀ x ∈ readHistory q, x.toNat < q.n.toNat := by
  intro x hx
  simp only [readHistory, List.mem_cons, List.mem_map] at hx
  rcases hx with rfl | ⟨g, hg, rfl⟩
  · exact h.rBound
  · exact h.lag.rsyncBound g hg

theorem writeHistory_lt (h : RingOk b q) : ∀ x ∈ writeHistory q, x.toNat < q.n.toNat := by
  intro x hx
  simp only [writeHistory, List.mem_cons, List.mem_map] at hx
  rcases hx with rfl | ⟨g, hg, rfl⟩
  · exact h.wBound
  · exact h.lag.wsyncBound g hg

theorem readView_mem (h : RingOk b q) : readView b q ∈ readHistory q := by
  rw [readView_eq_getLast h.build h.rsyncLen]; exact List.getLast_mem _

theorem writeView_mem (h : RingOk b q) : writeView b q ∈ writeHistory q := by
  rw [writeView_eq_getLast h.build h.wsyncLen]; exact List.getLast_mem _

theorem readView_lt (h : RingOk b q) : (readView b q).toNat < q.n.toNat := h.readHistory_lt _ h.readView_mem

theorem writeView_lt (h : RingOk b q) : (writeView b q).toNat < q.n.toNat := h.writeHistory_lt _ h.writeView_mem

/-- No read cursor the producer side knows of lies farther back than the one it sees (R202). -/
theorem dist_le_countP (h : RingOk b q) : ∀ x ∈ readHistory q, cursorDist q.n q.w x ≤ countP b q := by
  intro x hx
  unfold countP
  rw [readView_eq_getLast h.build h.rsyncLen]
  exact le_getLast_of_pairwise (fun x => cursorDist q.n q.w x) _ h.lag.rsyncLag x hx

/-- No write cursor the consumer side knows of lies less far ahead than the one it sees (R202). -/
theorem countC_le_dist (h : RingOk b q) : ∀ x ∈ writeHistory q, countC b q ≤ cursorDist q.n x q.r := by
  intro x hx
  unfold countC
  rw [writeView_eq_getLast h.build h.wsyncLen]
  have hp : (writeHistory q).Pairwise (fun x y =>
      q.n.toNat - cursorDist q.n x q.r ≤ q.n.toNat - cursorDist q.n y q.r) :=
    List.Pairwise.imp (fun hxy => Nat.sub_le_sub_left hxy _) h.lag.wsyncLag
  have hle := le_getLast_of_pairwise (fun x => q.n.toNat - cursorDist q.n x q.r)
    (l := writeHistory q) (by simp [writeHistory]) hp x hx
  have h1 : cursorDist q.n x q.r ≤ q.n.toNat := by
    rw [cursorDist_eq (h.writeHistory_lt x hx) h.rBound]; have := h.writeHistory_lt x hx; have := h.rBound
    split <;> omega
  have h2 : cursorDist q.n ((writeHistory q).getLast (by simp [writeHistory])) q.r ≤ q.n.toNat := by
    have hm := h.writeHistory_lt _ (List.getLast_mem (l := writeHistory q) (by simp [writeHistory]))
    rw [cursorDist_eq hm h.rBound]; have := h.rBound
    split <;> omega
  omega

/-- The count of each side and the ring's own (R202). -/
theorem counts (h : RingOk b q) : countC b q ≤ ringCount q ∧ ringCount q ≤ countP b q :=
  ⟨h.countC_le_dist q.w (by simp [writeHistory]), h.dist_le_countP q.r (by simp [readHistory])⟩

/-- Full on the producer side is a count one below the slots (R185). -/
theorem fullP_iff (h : RingOk b q) : fullP b q = true ↔ countP b q = q.n.toNat - 1 := by
  have h1 := h.readView_lt
  have h2 := h.wBound
  unfold fullP countP
  rw [beq_iff_eq, ← BitVec.toNat_inj, nextSlot_eq h2, cursorDist_eq h2 h1]
  split <;> split <;> omega

/-- Empty on the consumer side is a count of 0. -/
theorem emptyC_iff (h : RingOk b q) : emptyC b q = true ↔ countC b q = 0 := by
  have h1 := h.writeView_lt
  have h2 := h.rBound
  unfold emptyC countC
  rw [beq_iff_eq, ← BitVec.toNat_inj, cursorDist_eq h1 h2]
  split <;> omega

/-- A ring that the producer side sees as not full has room: one more entry leaves a slot free. -/
theorem room (h : RingOk b q) (hf : fullP b q = false) :
    ∀ x ∈ readHistory q, cursorDist q.n q.w x + 1 < q.n.toNat := by
  intro x hx
  have h1 := h.dist_le_countP x hx
  have h2 : countP b q ≠ q.n.toNat - 1 := fun he => by simp [h.fullP_iff.2 he] at hf
  have h3 : countP b q < q.n.toNat := by
    unfold countP
    have := h.readView_lt
    have := h.wBound
    rw [cursorDist_eq h.wBound h.readView_lt]
    split <;> omega
  omega

/-- Publishing an entry in a ring with room keeps the laws (R189, R195, R202). -/
theorem publish (h : RingOk b q) (hf : fullP b q = false) (m : Memory) :
    RingOk b { q with mem := m, w := nextSlot q q.w } := by
  have hw := h.wBound
  have hr := h.rBound
  have hroom := h.room hf
  have hn : (nextSlot q q.w).toNat = if q.w.toNat + 1 = q.n.toNat then 0 else q.w.toNat + 1 := nextSlot_eq hw
  have hnl := nextSlot_lt hw
  have hd : ∀ x ∈ readHistory q, cursorDist q.n (nextSlot q q.w) x = cursorDist q.n q.w x + 1 := by
    intro x hx
    have hxl := h.readHistory_lt x hx
    have := hroom x hx
    rw [cursorDist_eq hw hxl] at this
    rw [cursorDist_eq hnl hxl, cursorDist_eq hw hxl, hn]
    split_ifs at this ⊢ <;> omega
  refine ⟨h.build, h.rsyncLen, h.wsyncLen, hnl, hr, h.lag.rsyncBound, h.lag.wsyncBound, ?_, ?_⟩
  · refine List.Pairwise.imp_of_mem (R := fun x y => cursorDist q.n q.w x ≤ cursorDist q.n q.w y) ?_ h.lag.rsyncLag
    intro x y hx hy hxy
    show cursorDist q.n (nextSlot q q.w) x ≤ cursorDist q.n (nextSlot q q.w) y
    rw [hd x hx, hd y hy]; omega
  · have hp := List.pairwise_cons.1 h.lag.wsyncLag
    refine List.pairwise_cons.2 ⟨fun y hy => ?_, hp.2⟩
    have h1 := hp.1 y hy
    have h2 := hd q.r (by simp [readHistory])
    exact Nat.le_trans h1 (Nat.le_trans (Nat.le_succ _) (Nat.le_of_eq h2.symm))

/-- Taking an entry that the consumer side sees keeps the laws (R192, R194, R202). -/
theorem take (h : RingOk b q) (hc : countC b q ≠ 0) : RingOk b { q with r := nextSlot q q.r } := by
  have hw := h.wBound
  have hr := h.rBound
  have hn : (nextSlot q q.r).toNat = if q.r.toNat + 1 = q.n.toNat then 0 else q.r.toNat + 1 := nextSlot_eq hr
  have hnl := nextSlot_lt hr
  have hd : ∀ x ∈ writeHistory q, cursorDist q.n x (nextSlot q q.r) + 1 = cursorDist q.n x q.r := by
    intro x hx
    have hxl := h.writeHistory_lt x hx
    have := h.countC_le_dist x hx
    rw [cursorDist_eq hxl hr] at this
    rw [cursorDist_eq hxl hnl, cursorDist_eq hxl hr, hn]
    split_ifs at this ⊢ <;> omega
  refine ⟨h.build, h.rsyncLen, h.wsyncLen, hw, hnl, h.lag.rsyncBound, h.lag.wsyncBound, ?_, ?_⟩
  · have hp := List.pairwise_cons.1 h.lag.rsyncLag
    refine List.pairwise_cons.2 ⟨fun y hy => ?_, hp.2⟩
    have h1 := hp.1 y hy
    have h2 := hd q.w (by simp [writeHistory])
    refine Nat.le_trans ?_ h1
    show cursorDist q.n q.w (nextSlot q q.r) ≤ _
    omega
  · refine List.Pairwise.imp_of_mem (R := fun x y => cursorDist q.n y q.r ≤ cursorDist q.n x q.r) ?_ h.lag.wsyncLag
    intro x y hx hy hxy
    show cursorDist q.n y (nextSlot q q.r) ≤ cursorDist q.n x (nextSlot q q.r)
    have := hd x hx
    have := hd y hy
    omega

/-- A shift of the chains keeps the laws (R200). -/
theorem shift (h : RingOk b q) : RingOk b (shiftRing q) := by
  have hmem : ∀ (v : BitVec 16) (c : List (BitVec 16)), ∀ g ∈ shiftChain v c, grayToBin g = v ∨ g ∈ c := by
    intro v c g hg
    unfold shiftChain at hg
    cases c with
    | nil => simp at hg
    | cons a c =>
      simp only [List.length_cons, List.take_succ_cons, List.mem_cons] at hg
      rcases hg with rfl | hg
      · exact .inl (grayToBin_binToGray v)
      · exact .inr (List.mem_of_mem_take hg)
  have hsub : ∀ (v : BitVec 16) (c : List (BitVec 16)),
      ((shiftChain v c).map grayToBin).Sublist (v :: c.map grayToBin) := by
    intro v c
    unfold shiftChain
    have := (List.take_sublist c.length (binToGray v :: c)).map grayToBin
    rwa [List.map_cons, grayToBin_binToGray] at this
  refine ⟨h.build, by simpa [shiftRing, shiftChain] using h.rsyncLen,
    by simpa [shiftRing, shiftChain] using h.wsyncLen, h.wBound, h.rBound, ?_, ?_, ?_, ?_⟩
  · intro g hg
    rcases hmem _ _ g hg with he | hg
    · rw [he]; exact h.rBound
    · exact h.lag.rsyncBound g hg
  · intro g hg
    rcases hmem _ _ g hg with he | hg
    · rw [he]; exact h.wBound
    · exact h.lag.wsyncBound g hg
  · have hp := h.lag.rsyncLag
    refine List.pairwise_cons.2 ⟨fun y hy => ?_, hp.sublist (hsub _ _)⟩
    rcases List.mem_cons.1 ((hsub _ _).subset hy) with rfl | hy
    · exact Nat.le_refl _
    · exact (List.pairwise_cons.1 hp).1 y hy
  · have hp := h.lag.wsyncLag
    refine List.pairwise_cons.2 ⟨fun y hy => ?_, hp.sublist (hsub _ _)⟩
    rcases List.mem_cons.1 ((hsub _ _).subset hy) with rfl | hy
    · exact Nat.le_refl _
    · exact (List.pairwise_cons.1 hp).1 y hy

/-- A shift never makes the producer side see a full ring that it saw with room: its view only catches up (R202). -/
theorem fullP_shift (h : RingOk b q) (hf : fullP b q = false) : fullP b (shiftRing q) = false := by
  have hs := h.shift
  have hroom := h.room hf
  have hm : readView b (shiftRing q) ∈ readHistory q := by
    have := hs.readView_mem
    simp only [readHistory, List.mem_cons] at this ⊢
    rcases this with h1 | h1
    · exact .inl h1
    · refine List.mem_cons.1 ?_
      have hsub := (List.take_sublist q.rsync.length (binToGray q.r :: q.rsync)).map grayToBin
      rw [List.map_cons, grayToBin_binToGray] at hsub
      exact hsub.subset h1
  by_contra hc
  have h1 := hs.fullP_iff.1 (by simpa using hc)
  have h2 := hroom _ hm
  have h3 : countP b (shiftRing q) = cursorDist q.n q.w (readView b (shiftRing q)) := rfl
  have h4 : (shiftRing q).n.toNat = q.n.toNat := rfl
  rw [h3, h4] at h1
  change cursorDist q.n q.w _ = _ at h1
  omega

end RingOk

/-- A new ring has the laws (R180). -/
theorem ringOk_ringCreate {e : BitVec 8} (hb : b.Valid) (hn : 0 < (ringCreate b e q).n.toNat) :
    RingOk b (ringCreate b e q) := by
  have hall : ∀ g ∈ clearedChain b, g = 0 := by
    intro g hg
    unfold clearedChain at hg
    split at hg
    · simp at hg
    · exact List.eq_of_mem_replicate hg
  have hz : grayToBin 0 = 0 := by decide
  have hmap : ∀ y ∈ (0 : BitVec 16) :: (clearedChain b).map grayToBin, y = 0 := by
    intro y hy
    rcases List.mem_cons.1 hy with rfl | hy
    · rfl
    · obtain ⟨g, hg, rfl⟩ := List.mem_map.1 hy
      rw [hall g hg, hz]
  refine ⟨hb, rfl, rfl, hn, hn, ?_, ?_, ?_, ?_⟩
  · intro g hg; rw [hall g hg, hz]; exact hn
  · intro g hg; rw [hall g hg, hz]; exact hn
  · refine List.pairwise_of_forall_mem_list fun x hx y hy => ?_
    rw [hmap x hx, hmap y hy]
  · refine List.pairwise_of_forall_mem_list fun x hx y hy => ?_
    rw [hmap x hx, hmap y hy]

end Sys2Proof.Machine
end

