-- ==== Sys2Proof/Laws/Safety.lean ====
section
/-! SUPPORT. The small lemmas of Safety.lean's definitions: what a ring holds, the part of the invariant about RXQ's
bytes, and received symbols. -/

namespace Sys2Proof.Safety

open Sys2Proof Sys2Proof.Machine

@[simp] theorem slotBytes_length (q : Ring) (slot : Nat) : (slotBytes q slot).length = q.e.toNat := by
  simp [slotBytes]

@[simp] theorem entries_length (q : Ring) : (entries q).length = ringCount q := by simp [entries]

/-- A slot is written exactly where each of its bytes is. -/
theorem none_notMem_slotBytes {q : Ring} {slot : Nat} :
    none ∉ slotBytes q slot ↔ ∀ j < q.e.toNat, ∃ v, q.mem.read? (slot * q.e.toNat + j) = some v := by
  simp only [slotBytes, List.mem_map, List.mem_range, not_exists, not_and]
  exact forall₂_congr fun j _ => Option.ne_none_iff_exists'

/-- A ring with equal cursors holds no entry. -/
theorem entries_of_eq {q : Ring} (h : q.w = q.r) : entries q = [] := by
  simp [entries, ringCount, cursorDist, h]

/-- What a ring holds does not depend on its synchroniser chains. -/
theorem entries_congr {q q' : Ring} (hm : q'.mem = q.mem) (he : q'.e = q.e) (hn : q'.n = q.n) (hw : q'.w = q.w)
    (hr : q'.r = q.r) : entries q' = entries q := by
  simp [entries, slotBytes, ringCount, hm, he, hn, hw, hr]

/-- `RxqWritten` reads RXQ's region and cursors, the ownership and the owned slot, and nothing else. -/
theorem RxqWritten.congr {s t : State} (h : RxqWritten s) (hm : t.rxq.mem = s.rxq.mem) (he : t.rxq.e = s.rxq.e)
    (hn : t.rxq.n = s.rxq.n) (hw : t.rxq.w = s.rxq.w) (hr : t.rxq.r = s.rxq.r) (ho : t.rxqOwned = s.rxqOwned)
    (hs : t.rxqOslot = s.rxqOslot) : RxqWritten t where
  committed := by rw [entries_congr hm he hn hw hr]; exact h.committed
  owned := by rw [ho, hs]; simpa [slotBytes, hm, he] using h.owned

/-- RXQ empty and nothing owned: no byte has to be written. -/
theorem RxqWritten.of_empty {s : State} (h : s.rxq.w = s.rxq.r) (ho : s.rxqOwned = false) : RxqWritten s where
  committed := by simp [entries_of_eq h]
  owned := by simp [ho]

/-- A received symbol that lies inside the bits is whole. -/
theorem symbolAt_length {c : CfgRegs} {bits : List Bool} {j n : Nat} (hj : j < n)
    (h : n * c.symbits.toNat ≤ bits.length) : (symbolAt c bits j).length = c.symbits.toNat := by
  have hle : (j + 1) * c.symbits.toNat ≤ n * c.symbits.toNat := Nat.mul_le_mul_right _ hj
  rw [Nat.add_mul, Nat.one_mul] at hle
  simp only [symbolAt, slice, List.length_take, List.length_drop]
  omega

end Sys2Proof.Safety
end

