-- ==== Sys2Proof/Tests/Slice0.lean ====
section
/-! SUPPORT. Tests on fixed values, their expected results written from the spec, and for each statement with
hypotheses a state and operands that meet them. A test is a check of the model, no statement for the provers. -/

namespace Sys2Proof.Tests

open Sys2Proof Sys2Proof.Machine Sys2Proof.Safety

/-! ## Helpers -/

/-- The state after one operation; the same state where it does not answer `next`. -/
def after (i : Instr) (s : State) : State :=
  match exec i s with
  | .next t => t
  | .fault _ => s
  | .refused _ => s

/-- The operation answers `next`. -/
def completes (i : Instr) (s : State) : Bool :=
  match exec i s with
  | .next _ => true
  | .fault _ => false
  | .refused _ => false

theorem exists_next {i : Instr} {s : State} (h : completes i s = true) : ∃ t, exec i s = .next t := by
  unfold completes at h
  split at h
  · next t ht => exact ⟨t, ht⟩
  · simp at h
  · simp at h

/-- The state after one cycle; the same state where it does not answer `next`. -/
def afterStep (s : State) : State :=
  match Machine.step s with
  | .next t => t
  | .fault _ => s
  | .refused _ => s

/-- The causes of R239. -/
def causes : List Cause :=
  [.cfgBadId, .cfgBadCount, .cfgBadLen, .cfgRingTooSmall, .cfgTimingOverflow, .cfgBusy, .notConfigured,
    .txqDoubleReserve, .txqNoReservation, .offsetRange, .rxqNotOwned, .illegalCommand, .illegalCsr]

/-- A memory in canonical form inside a bound. -/
abbrev MemOk (size : Nat) (m : Memory) : Prop := m.wf = true ∧ m.below size = true

/-- `CfgLegal`, field by field. -/
abbrev CfgFacts (b : Config.Build) (c : CfgRegs) : Prop :=
  (c.n.toNat = 2 ∨ c.n.toNat = 3) ∧ c.i.toNat < c.n.toNat ∧ 1 ≤ c.plen.toNat ∧
    c.plen.toNat ≤ b.payloadMax.toNat ∧ 2 ≤ b.ringBytes.toNat / c.plen.toNat ∧
    guardOf b c.codec c.n.toNat c.plen.toNat ≤ 2 ^ 32 - 1 ∧ c = cfgRegsOf b c.i c.n c.plen c.codec

theorem cfgLegal_of_facts {b : Config.Build} {c : CfgRegs} (h : CfgFacts b c) : CfgLegal b c :=
  ⟨h.1, h.2.1, h.2.2.1, h.2.2.2.1, h.2.2.2.2.1, h.2.2.2.2.2.1, h.2.2.2.2.2.2⟩

/-- `RingShape` and `ViewsLag` of a configured ring, field by field. -/
abbrev RingFacts (b : Config.Build) (c : CfgRegs) (q : Ring) : Prop :=
  q.rsync.length = (clearedChain b).length ∧ q.wsync.length = (clearedChain b).length ∧ q.e = c.plen ∧
    q.n.toNat = slotsOf b c.plen.toNat ∧ q.w.toNat < q.n.toNat ∧ q.r.toNat < q.n.toNat ∧
    (q.rsync.all fun g => decide ((grayToBin g).toNat < q.n.toNat)) = true ∧
    (q.wsync.all fun g => decide ((grayToBin g).toNat < q.n.toNat)) = true ∧
    List.Pairwise (fun x y => cursorDist q.n q.w x ≤ cursorDist q.n q.w y) (q.r :: q.rsync.map grayToBin) ∧
    List.Pairwise (fun x y => cursorDist q.n y q.r ≤ cursorDist q.n x q.r) (q.w :: q.wsync.map grayToBin)

theorem ringShape_of_facts {b : Config.Build} {c : CfgRegs} {q : Ring} (hc : c.configured = true)
    (h : RingFacts b c q) : RingShape b c q :=
  ⟨h.1, h.2.1, h.2.2.1, by rw [if_pos hc]; exact h.2.2.2.1, fun _ => h.2.2.2.2.1, fun _ => h.2.2.2.2.2.1,
    fun h => by simp [hc] at h, fun h => by simp [hc] at h⟩

theorem viewsLag_of_facts {b : Config.Build} {c : CfgRegs} {q : Ring} (h : RingFacts b c q) : ViewsLag q :=
  ⟨fun g hg => by simpa using List.all_eq_true.1 h.2.2.2.2.2.2.1 g hg,
    fun g hg => by simpa using List.all_eq_true.1 h.2.2.2.2.2.2.2.1 g hg, h.2.2.2.2.2.2.2.2.1, h.2.2.2.2.2.2.2.2.2⟩

/-- The scheduler's and the fault registers' part of the invariant, field by field. -/
abbrev ControlFacts (s : State) : Prop :=
  ((s.sched.valid = true ↔ s.sched.state = .sending) ∧
      (s.fault.faulted = false → (s.timer.armed = true ↔ s.sched.state ≠ .idle)) ∧
      (s.fault.faulted = true → s.timer.armed = false) ∧ s.sched.rep.toNat ≤ s.cfg.n.toNat ∧
      (s.sched.state = .idle → s.sched.rep = 0) ∧
      (s.sched.state = .waitGuard → s.sched.rep.toNat = s.cfg.n.toNat) ∧
      s.timer.count.toNat ≤ s.cfg.guard.toNat ∧ (s.timer.armed = false → s.timer.count = 0) ∧
      (s.timer.armed = true → 1 ≤ s.timer.count.toNat)) ∧
    ((s.fault.faulted = false → s.fault.cause = 0 ∧ s.fault.op = 0) ∧
      (s.fault.faulted = true → s.fault.cause ∈ causes.map causeCode))

/-- The invariant of a configured state, in a form that `decide` evaluates. -/
def invCheck (s : State) : Bool :=
  decide s.build.Valid &&
    (decide (MemOk (memSize s.build .frameBuf) s.frameBuf) && decide (MemOk (memSize s.build .stage) s.stage) &&
      decide (MemOk (memSize s.build .txq) s.txq.mem) && decide (MemOk (memSize s.build .rxq) s.rxq.mem)) &&
    (s.cfg.configured && decide (CfgFacts s.build s.cfg)) &&
    (decide (RingFacts s.build s.cfg s.txq) && decide (RingFacts s.build s.cfg s.rxq)) &&
    (decide (s.txqReserved = true → fullP s.build s.txq = false) &&
      decide (s.rxqOwned = true → s.rxqOslot.toNat = cursorDist s.rxq.n s.rxq.r 1)) &&
    (decide (∀ cells ∈ entries s.rxq, none ∉ cells) &&
      decide (s.rxqOwned = true → none ∉ slotBytes s.rxq s.rxqOslot.toNat)) &&
    decide (ControlFacts s)

theorem inv_of_check {s : State} (h : invCheck s = true) : Safety.Inv s := by
  simp only [invCheck, Bool.and_eq_true, decide_eq_true_eq] at h
  obtain ⟨⟨⟨⟨⟨⟨hb, ⟨⟨m1, m2⟩, m3⟩, m4⟩, hc, hl⟩, ht, hr⟩, hres, hown⟩, hcom, how⟩,
    ⟨s1, s2, s3, s4, s5, s6, s7, s8, s9⟩, f1, f2⟩ := h
  refine ⟨hb, fun k => ?_, ⟨fun _ => cfgLegal_of_facts hl, fun h => by simp [hc] at h⟩,
    ⟨ringShape_of_facts hc ht, ringShape_of_facts hc hr, fun _ => viewsLag_of_facts ht,
      fun _ => viewsLag_of_facts hr, fun h => ⟨hc, hres h⟩, fun h => ⟨hc, hown h⟩⟩, ⟨hcom, how⟩,
    ⟨s1, s2, s3, s4, s5, s6, s7, s8, s9, fun h => by simp [hc] at h⟩, f1, fun h => ?_⟩
  · cases k
    · exact m1
    · exact m2
    · exact m3
    · exact m4
  · obtain ⟨c, _, hcc⟩ := List.mem_map.1 (f2 h)
    exact ⟨c, hcc.symm⟩

/-! ## States -/

/-- Right after `CFG 0, 2, 4, ID` (V-CFG-1). -/
def idle : State := setRequests [] (after (.cfg 0 2 4 .identity) State.reset)

/-- The same in a `GRAY` build. -/
def idleGray : State := setRequests [] (after (.cfg 0 2 4 .identity) (State.resetOf Config.tp1Gray))

/-- An entry reserved in slot 3, the last slot. -/
def reserved : State := setTxqReserved true (setTxq { idle.txq with w := 3, r := 1 } idle)

/-- TXQ full. -/
def txqFull : State := setTxq { idle.txq with w := 3 } idle

/-- RXQ's region with every slot delivered to. -/
def delivered : Memory := Memory.writeBytes [] 0 (List.replicate 4 [0xDE, 0xAD, 0xBE, 0xEF]).flatten

/-- RXQ full. -/
def rxqFull : State := setRxq { idle.rxq with mem := delivered, w := 3 } idle

/-- One entry in RXQ, in the last slot. -/
def rxqOne : State := setRxq { idle.rxq with mem := delivered, w := 0, r := 3 } idle

/-- Slot 0 of RXQ owned and another entry behind it, the two other slots not written yet. -/
def owned : State := setRxqOwned true (setRxq { idle.rxq with mem := delivered.take 8, w := 2, r := 1 } idle)

/-- Sending with `REP` repetitions done and `k` ticks to go. -/
def sending (rep : BitVec 4) (k : BitVec 32) : State := setTimer ⟨true, k⟩ (setSched ⟨.sending, rep, true⟩ idle)

/-- WaitGuard with `k` ticks to go. -/
def waiting (k : BitVec 32) : State := setTimer ⟨true, k⟩ (setSched ⟨.waitGuard, 2, false⟩ idle)

/-- WaitGuard in its last tick with an entry in slot 0 of TXQ. -/
def queued : State := setTxq { idle.txq with mem := [(0, 1), (1, 2), (2, 3), (3, 4)], w := 1 } (waiting 1)

/-- The fault state, after `TXQ_COMMIT` without a reservation. -/
def faulted : State := after .txqCommit idle

/-- A `GRAY` core in which a written entry is not seen yet: the cursor has moved, the chain has not. -/
def lagging : State := setRxq { idleGray.rxq with mem := delivered, w := 1, wsync := [1, 0] } idleGray

/-- A state whose next cycle presents this and nothing else. -/
def presenting (p : PortInput) (s : State) : State := setInputs [cycleOf p] s

/-- The frame of `DE AD BE EF` (V-DEC-1). -/
def goodBits : List Bool := bitString [0xDE, 0xAD, 0xBE, 0xEF, 0x81, 0xDA, 0x1A, 0x18]

theorem inv_idle : Safety.Inv idle := inv_of_check (by decide)
theorem inv_idleGray : Safety.Inv idleGray := inv_of_check (by decide)
theorem inv_reserved : Safety.Inv reserved := inv_of_check (by decide)
theorem inv_txqFull : Safety.Inv txqFull := inv_of_check (by decide)
theorem inv_rxqFull : Safety.Inv rxqFull := inv_of_check (by decide)
theorem inv_rxqOne : Safety.Inv rxqOne := inv_of_check (by decide)
theorem inv_owned : Safety.Inv owned := inv_of_check (by decide)
theorem inv_queued : Safety.Inv queued := inv_of_check (by decide)
theorem inv_faulted : Safety.Inv faulted := inv_of_check (by decide)
theorem inv_lagging : Safety.Inv lagging := inv_of_check (by decide)
theorem inv_sending_first : Safety.Inv (sending 0 1) := inv_of_check (by decide)
theorem inv_sending_last : Safety.Inv (sending 2 1) := inv_of_check (by decide)
theorem inv_waiting : Safety.Inv (waiting 1) := inv_of_check (by decide)

/-! ## WellFormed: an ill-formed term refused (R80) -/

theorem test_wellFormed_refuses_short_operand : wellFormed (.evRxEom 3 [true]) = false := by decide
theorem test_wellFormed_refuses_long_operand : wellFormed (.evRxEom 0 [true]) = false := by decide

/-! ## Words written out from the encoding tables (R81, R86, V-ENC-1 to V-ENC-38) -/

theorem test_decode_nop : decode (.command 0b00000000000000000000000000000000) = .ok .nop := by decide
theorem test_decode_cfg : decode (.command 0b00001001000010000000001100000001) = .ok (.cfg 1 3 8 .eightTenB) := by
  decide
theorem test_decode_stageWr : decode (.command 0b00010000000000000000001111101111) = .ok (.stageWr 3 0xEF) := by decide
theorem test_decode_send : decode (.command 0b00011000000000000000000000000000) = .ok .send := by decide
theorem test_decode_txqReserve : decode (.command 0b00100000000000000000000000000000) = .ok .txqReserve := by decide
theorem test_decode_txqWr : decode (.command 0b00101000000000000000000100000010) = .ok (.txqWr 1 0x02) := by decide
theorem test_decode_txqCommit : decode (.command 0b00110000000000000000000000000000) = .ok .txqCommit := by decide
theorem test_decode_txqAbandon : decode (.command 0b00111000000000000000000000000000) = .ok .txqAbandon := by decide
theorem test_decode_txqCount : decode (.command 0b01000000000000000000000000000000) = .ok .txqCount := by decide
theorem test_decode_rxqPop : decode (.command 0b01001000000000000000000000000000) = .ok .rxqPop := by decide
theorem test_decode_rxqRd : decode (.command 0b01010000000000000000001100000000) = .ok (.rxqRd 3) := by decide
theorem test_decode_rxqCount : decode (.command 0b01011000000000000000000000000000) = .ok .rxqCount := by decide
theorem test_decode_rdcsr : decode (.command 0b01100000000000000000000000001010) = .ok (.rdcsr 0x0A) := by decide
theorem test_decode_clrcnt : decode (.command 0b01101000000000000000000000000000) = .ok .clrcnt := by decide
theorem test_decode_evRxEom :
    decode (.event 0b00100000000000000000000000000011 [true, false, true]) = .ok (.evRxEom 3 [true, false, true]) := by
  decide
theorem test_decode_evTxEmpty : decode (.event 0b00110000111111111111000000000000 []) = .ok .evTxEmpty := by decide
theorem test_decode_evTxReady : decode (.event 0b01000000000000000000000000000000 []) = .ok .evTxReady := by decide
theorem test_decode_evTxError : decode (.event 0b01010000000000000000000000000000 []) = .ok .evTxError := by decide
theorem test_decode_tick : decode .tick = .ok .tick := by decide
theorem test_decode_rejects :
    decode (.command 0x18000001) = .error (.reservedBits 3) ∧ decode (.command 0xF8000000) = .error (.reservedOpcode 31) ∧
      decode (.event 0xF0000000 []) = .error (.reservedEvent 15) ∧ decode (.event 0 []) = .error .noEvent := by decide

/-! ## One step each, from the vectors of 95_test_vectors.md -/

theorem test_nop : (after .nop faulted).rsp = ⟨false, 0⟩ := by decide
theorem test_cfg : csrValue 0x0B idle = some 0x0040000C ∧ csrValue 0x0C idle = some 0x3E8 ∧
    csrValue 0x0D idle = some 0x302 ∧ csrValue 0x0E idle = some 0xFA0 ∧ csrValue 0x11 idle = some 0x00030000 := by
  decide
theorem test_cfg_checks_count_first : (after (.cfg 7 5 0 .identity) State.reset).fault = ⟨true, 0x02, 1⟩ := by decide
theorem test_stageWr : (after (.stageWr 3 0xEF) idle).stage = [(3, 0xEF)] := by decide
theorem test_stageWr_range : (after (.stageWr 4 0) idle).fault = ⟨true, 0x0A, 2⟩ := by decide
theorem test_send_rejected : after .send (sending 1 9) = respond true 0 (sending 1 9) := by decide
theorem test_send_frame :
    (after .send (setStage [(0, 0xDE), (1, 0xAD), (2, 0xBE), (3, 0xEF)] idle)).frameBuf.map Prod.snd =
      [0xAA, 0xAA, 0xAA, 0xDE, 0xAD, 0xBE, 0xEF, 0x81, 0xDA, 0x1A, 0x18, 0x00] := by decide +kernel
theorem test_txqReserve : (after .txqReserve reserved).fault = ⟨true, 0x08, 4⟩ := by decide
theorem test_txqReserve_full : (after .txqReserve txqFull).rsp = ⟨true, 0⟩ ∧
    (after .txqReserve txqFull).cnt.txqFull = 1 := by decide
theorem test_txqWr : (after (.txqWr 2 0x55) reserved).txq.mem = [(14, 0x55)] := by decide
theorem test_txqCommit_wraps : (after .txqCommit reserved).txq.w = 0 := by decide
theorem test_txqAbandon : (after .txqAbandon reserved).txqReserved = false ∧
    (after .txqAbandon reserved).txq = reserved.txq := by decide
theorem test_txqCount : (after .txqCount txqFull).rsp = ⟨false, 3⟩ := by decide
theorem test_rxqPop_wraps : (after .rxqPop rxqOne).rsp = ⟨false, 3⟩ ∧ (after .rxqPop rxqOne).rxq.r = 0 := by decide
theorem test_rxqPop_empty : (after .rxqPop idle).rsp = ⟨true, 0⟩ ∧ (after .rxqPop idle).cnt.rxqEmpty = 1 := by decide
theorem test_rxqRd : (after (.rxqRd 3) owned).rsp = ⟨false, 0xEF⟩ := by decide
theorem test_rxqCount_lags : (after .rxqCount lagging).rsp = ⟨false, 0⟩ := by decide
theorem test_rdcsr_status : csrValue 0x09 (sending 1 9) = some 0x415 := by decide
theorem test_rdcsr_reserved : (after (.rdcsr 0x06) State.reset).fault = ⟨true, 0x0D, 12⟩ := by decide
theorem test_clrcnt : (after .clrcnt idle).cnt = .zero := by decide
theorem test_evRxEom : (after (.evRxEom 64 goodBits) idle).rxq.mem = [(0, 0xDE), (1, 0xAD), (2, 0xBE), (3, 0xEF)] ∧
    (after (.evRxEom 64 goodBits) idle).rxq.w = 1 := by decide +kernel
theorem test_evRxEom_corrected :
    decodeFrame idle.cfg (goodBits.modify 63 not) = .okCorrected [0xDE, 0xAD, 0xBE, 0xEF] := by decide +kernel
theorem test_evTxEmpty : (after .evTxEmpty (setRadio ⟨true, false⟩ (sending 1 9))).radio = ⟨false, false⟩ := by decide
theorem test_evTxReady : after .evTxReady (sending 1 9) = sending 1 9 := by decide
theorem test_evTxError_counts : (after .evTxError (sending 1 9)).cnt.txError = 1 := by decide
theorem test_tick_ends_sequence : (after .tick (sending 2 1)).sched = ⟨.waitGuard, 2, false⟩ ∧
    (after .tick (sending 2 1)).timer = ⟨true, 4000⟩ := by decide
theorem test_tick_ignored : after .tick faulted = faulted := by decide
theorem test_symbols : lineEncode .eightTenB [0xDE, 0xAD] =
    [false, true, true, true, true, false, false, true, true, false,
      true, false, true, true, false, false, true, false, true, false] := by decide
theorem test_gray_capacity :
    (after (.cfg 0 2 5 .identity) (State.resetOf Config.tp1Gray)).txq.n = 2 := by decide
theorem test_assemble : assemble (.stageWr 256 0) = none ∧
    assemble (.push [1, 2]) = some [0x20000000, 0x28000001, 0x28000102, 0x30000000] := by decide
theorem test_table_word : decodeTableWord 32 0x6000000A = some (.rdcsr 0x0A) ∧ decodeTableWord 1 1 = some .tick := by
  decide
theorem test_fetch_word : (afterStep (State.reset.withFetchWord 32 0x60000000)).rsp = ⟨false, 0x464D4143⟩ := by decide
theorem test_illegal_word_faults : (afterStep (State.reset.withFetchWord 32 0x00000001)).fault = ⟨true, 0x0C, 0⟩ := by
  decide

/-! ## Witnesses: for each statement with hypotheses, a state and operands that meet them together -/

theorem witness_DecodeEncodeAgree :
    wellFormed (.evRxEom 3 [true, false, true]) = true ∧ wellFormed (.evRxEom 0 []) = true ∧
      wellFormed (.cfg 255 255 255 .eightTenB) = true := by decide

theorem witness_CommandWordLegality :
    legalCommand 0x600000FF = true ∧ legalCommand 0x68000001 = false ∧ legalCommand 0x70000000 = false ∧
      (cycleOf (.command 0x68000001)).cmd = some 0x68000001 ∧ idle.fault.faulted = false := by decide

theorem witness_EventWordReading :
    (evField (cycleOf (.event 0x10000000 [])).evWord).toNat < 2 ∧
      5 < (evField (cycleOf (.event 0x60000000 [])).evWord).toNat ∧
      evField 0x2FFF0040 = evField (cycleOf (.event 0x20000040 goodBits)).evWord ∧ evField 0x2FFF0040 = 2 ∧
      lenField 0x2FFF0040 = lenField (cycleOf (.event 0x20000040 goodBits)).evWord := by decide

theorem witness_StepRunsPresentedOperation :
    decode (.event 0x20000040 goodBits) = .ok (.evRxEom 64 goodBits) ∧
      Presents (.event 0x20000040 goodBits) ⟨true, true⟩ (presenting (.event 0x20000040 goodBits) idle) := by
  refine ⟨by decide, rfl⟩

/-- A cycle that presents an event, a tick and a command (V-SCH-14's order). -/
def fullCycle : CycleIn :=
  { quietCycle with evWord := 0x20000002, rxBits := [true, false], tick := true, cmd := some 0x6000000F }

theorem witness_CycleRunsInOrder :
    nextInput (setInputs [fullCycle] (sending 1 2)) = fullCycle ∧ fullCycle.rst = false ∧
      (evField fullCycle.evWord).toNat = 2 ∧ fullCycle.rxBits.length = (lenField fullCycle.evWord).toNat ∧
      fullCycle.cmd = some 0x6000000F ∧ legalCommand 0x6000000F = true := by decide

theorem witness_ResetCycle :
    (nextInput (setInputs [{ fullCycle with rst := true }] (sending 1 2))).rst = true := by decide

theorem witness_StageWrStoresOneByte :
    Safety.Inv idle ∧ Ready idle ∧ (3 : BitVec 8).toNat < idle.cfg.plen.toNat ∧
      idle.cfg.plen.toNat ≤ (4 : BitVec 8).toNat := ⟨inv_idle, by unfold Ready; decide, by decide, by decide⟩

theorem witness_RdcsrAnswersTheWord :
    State.reset.fault.faulted = false ∧ csrValue 0x24 State.reset = some 0 ∧ csrValue 0x25 State.reset = none ∧
      csrValue 0x05 State.reset = some 0x00AAAAAA ∧ csrValue 0x06 State.reset = none := by decide

theorem witness_CsrFieldLayout : idle.cfg.configured = true ∧ State.reset.cfg.configured = false := by decide

theorem witness_ClrcntClearsTheCounters : idle.fault.faulted = false ∧ idle.cnt.txqEmptyPull = 1 := by decide

/-- The largest payload that leaves two slots under TP1 (V-CFG-7, V-CFG-8). -/
theorem cfgAccepted_eight (s : State) (h1 : s.build = Config.tp1 ∨ s.build = Config.tp1Gray)
    (h2 : s.fault.faulted = false) (h3 : s.sched.state = .idle) : CfgAccepted s 2 3 8 .eightTenB := by
  rcases h1 with h1 | h1 <;>
    exact ⟨h2, h3, by decide, by decide, by decide, by rw [h1]; decide, by rw [h1]; decide, by rw [h1]; decide⟩

theorem witness_CfgCompletes : CfgAccepted State.reset 2 3 8 .eightTenB ∧ CfgAccepted idle 2 3 8 .eightTenB :=
  ⟨cfgAccepted_eight _ (by decide) rfl rfl, cfgAccepted_eight _ (by decide) (by decide) (by decide)⟩

theorem witness_CfgDerivedRegisters : State.reset.build.Valid ∧ CfgAccepted State.reset 2 3 8 .eightTenB :=
  ⟨by decide, cfgAccepted_eight _ (by decide) rfl rfl⟩

theorem witness_CfgCreatesTheRings :
    CfgAccepted State.reset 2 3 8 .eightTenB ∧ State.reset.build.cdcMode = .sync ∧
      CfgAccepted idleGray 2 3 8 .eightTenB ∧ idleGray.build.cdcMode = .gray :=
  ⟨cfgAccepted_eight _ (by decide) rfl rfl, rfl, cfgAccepted_eight _ (by decide) (by decide) (by decide), by decide⟩

/-- V-CFG-21's build. -/
def slowBuild : Config.Build := { Config.tp1 with ticksPerBit := 4100000 }

theorem witness_CfgFaultsInOrder :
    State.reset.fault.faulted = false ∧ (sending 1 9).sched.state ≠ .idle ∧ (sending 1 9).fault.faulted = false ∧
      State.reset.sched.state = .idle ∧ ¬((1 : BitVec 8).toNat = 2 ∨ (1 : BitVec 8).toNat = 3) ∧
      ((3 : BitVec 8).toNat = 2 ∨ (3 : BitVec 8).toNat = 3) ∧ (3 : BitVec 8).toNat ≤ (3 : BitVec 8).toNat ∧
      (2 : BitVec 8).toNat < (3 : BitVec 8).toNat ∧ (0 : BitVec 8).toNat = 0 ∧
      State.reset.build.payloadMax.toNat < (33 : BitVec 8).toNat ∧
      (9 : BitVec 8).toNat ≤ State.reset.build.payloadMax.toNat ∧
      State.reset.build.ringBytes.toNat / (9 : BitVec 8).toNat < 2 ∧
      2 ≤ (State.resetOf slowBuild).build.ringBytes.toNat / (4 : BitVec 8).toNat ∧
      2 ^ 32 - 1 < guardTicks (State.resetOf slowBuild).build .identity (3 : BitVec 8).toNat (4 : BitVec 8).toNat := by
  decide

theorem witness_SendStartsTheSequence : Safety.Inv idle ∧ Ready idle ∧ idle.sched.state = .idle :=
  ⟨inv_idle, by unfold Ready; decide, by decide⟩

theorem witness_SendRejected : Ready (sending 1 9) ∧ (sending 1 9).sched.state ≠ .idle := by unfold Ready; decide

theorem witness_TxqReserveTakesASlot :
    (Safety.Inv reserved ∧ Ready reserved ∧ reserved.txqReserved = true) ∧
      (Safety.Inv txqFull ∧ Ready txqFull ∧ txqFull.txqReserved = false ∧
        (txqFull.txq.w.toNat + 1) % txqFull.txq.n.toNat = (readView txqFull.build txqFull.txq).toNat) ∧
      (Safety.Inv idle ∧ Ready idle ∧ idle.txqReserved = false ∧
        (idle.txq.w.toNat + 1) % idle.txq.n.toNat ≠ (readView idle.build idle.txq).toNat) :=
  ⟨⟨inv_reserved, by unfold Ready; decide, by decide⟩, ⟨inv_txqFull, by unfold Ready; decide, by decide, by decide⟩,
    inv_idle, by unfold Ready; decide, by decide, by decide⟩

theorem witness_TxqWrStoresOneByte :
    (Safety.Inv idle ∧ Ready idle ∧ idle.txqReserved = false) ∧ Safety.Inv reserved ∧ Ready reserved ∧
      reserved.txqReserved = true ∧ reserved.txq.e.toNat ≤ (4 : BitVec 8).toNat ∧
      (3 : BitVec 8).toNat < reserved.txq.e.toNat :=
  ⟨⟨inv_idle, by unfold Ready; decide, by decide⟩, inv_reserved, by unfold Ready; decide, by decide, by decide,
    by decide⟩

theorem witness_TxqCommitPublishes :
    (Safety.Inv idle ∧ Ready idle ∧ idle.txqReserved = false) ∧ Safety.Inv reserved ∧ Ready reserved ∧
      reserved.txqReserved = true :=
  ⟨⟨inv_idle, by unfold Ready; decide, by decide⟩, inv_reserved, by unfold Ready; decide, by decide⟩

theorem witness_TxqAbandonEndsTheReservation :
    (Ready idle ∧ idle.txqReserved = false) ∧ Ready reserved ∧ reserved.txqReserved = true := by
  unfold Ready; decide

theorem witness_RingCountsAnswered : Safety.Inv rxqFull ∧ Ready rxqFull := ⟨inv_rxqFull, by unfold Ready; decide⟩

theorem witness_RxqPopTakesTheOldest :
    (Safety.Inv idle ∧ Ready idle ∧ writeView idle.build idle.rxq = idle.rxq.r) ∧
      Safety.Inv rxqOne ∧ Ready rxqOne ∧ writeView rxqOne.build rxqOne.rxq ≠ rxqOne.rxq.r :=
  ⟨⟨inv_idle, by unfold Ready; decide, by decide⟩, inv_rxqOne, by unfold Ready; decide, by decide⟩

theorem witness_RxqRdAnswersTheByte :
    (Safety.Inv idle ∧ Ready idle ∧ idle.rxqOwned = false) ∧ Safety.Inv owned ∧ Ready owned ∧ owned.rxqOwned = true ∧
      owned.rxq.e.toNat ≤ (4 : BitVec 8).toNat ∧ (3 : BitVec 8).toNat < owned.rxq.e.toNat ∧
      owned.rxq.mem.read? (owned.rxqOslot.toNat * owned.rxq.e.toNat + (3 : BitVec 8).toNat) = some 0xEF :=
  ⟨⟨inv_idle, by unfold Ready; decide, by decide⟩, inv_owned, by unfold Ready; decide, by decide, by decide, by decide,
    by decide⟩

theorem cfgLegal_idle : CfgLegal idle.build idle.cfg := cfgLegal_of_facts (by decide)

/-- The configuration of V-CFG-5. -/
def coded : State := after (.cfg 0 2 4 .eightTenB) State.reset

theorem cfgLegal_coded : CfgLegal coded.build coded.cfg := cfgLegal_of_facts (by decide)

/-- A symbol made of a 6-bit and a 4-bit code of a byte stands for it. -/
theorem stands_of_codes {symbol : List Bool} {b : Byte} (h : ∃ rd ∈ [Disparity.neg, .pos], ∃ rd' ∈ [Disparity.neg, .pos],
    symbol = bitsOf (sixOf rd b) ++ bitsOf (fourOf rd' b)) : Stands .eightTenB symbol b := by
  obtain ⟨rd, _, rd', _, h⟩ := h
  refine ⟨rd, rd', fourOf rd' b, ?_, h⟩
  by_cases h7 : (b.extractLsb' 5 3).toNat = 7 ∧
      (b.extractLsb' 0 5).toNat ∈ (match rd' with | .neg => [17, 18, 20] | .pos => [11, 13, 14])
  · exact .inr ⟨h7.1, if_pos h7⟩
  · exact .inl (if_neg h7)

/-- Whole symbols that stand for the bytes of a message, one by one, carry it. -/
theorem carries_of_symbols {c : CfgRegs} {bits : List Bool} {m : List Byte}
    (hl : bits.length % c.symbits.toNat = 0 ∧ c.rxlen.toNat ≤ bits.length ∧ m.length = c.plen.toNat + 4)
    (hs : ∀ j : Fin m.length, Stands c.codec (symbolAt c bits j) m[j]) : Carries c bits m :=
  ⟨hl.1, hl.2.1, hl.2.2, fun j b h => by
    obtain ⟨hj, rfl⟩ := List.getElem?_eq_some_iff.1 h
    exact hs ⟨j, hj⟩⟩

/-- The message of V-DEC-1 with another first byte. -/
def altered (first : Byte) : List Byte := [first, 0xAD, 0xBE, 0xEF, 0x81, 0xDA, 0x1A, 0x18]

theorem carries_idle (first : Byte) (h : ((bitString (altered first)).length % idle.cfg.symbits.toNat = 0 ∧
    idle.cfg.rxlen.toNat ≤ (bitString (altered first)).length ∧ (altered first).length = idle.cfg.plen.toNat + 4) ∧
    ∀ j : Fin (altered first).length, symbolAt idle.cfg (bitString (altered first)) j = bitsOf (altered first)[j]) :
    Carries idle.cfg (bitString (altered first)) (altered first) := carries_of_symbols h.1 h.2

theorem carries_coded : Carries coded.cfg (lineEncode .eightTenB (altered 0xDE)) (altered 0xDE) :=
  carries_of_symbols (by decide +kernel) fun j => stands_of_codes (by revert j; decide +kernel)

/-- A good frame, one with one wrong bit and one with two, in both line codes' configurations; too few bits, a broken
symbol, and an invalid one. -/
theorem witness_ReceiveDropsAreCounted_conditions :
    (Ready idle ∧ CfgLegal idle.build idle.cfg ∧ Carries idle.cfg goodBits (altered 0xDE) ∧
      Carries idle.cfg (bitString (altered 0x5E)) (altered 0x5E) ∧
      Carries idle.cfg (bitString (altered 0x1E)) (altered 0x1E)) ∧
      Ready coded ∧ CfgLegal coded.build coded.cfg ∧
      Carries coded.cfg (lineEncode .eightTenB (altered 0xDE)) (altered 0xDE) ∧
      (goodBits.take 63).length % idle.cfg.symbits.toNat ≠ 0 ∧ (goodBits.take 56).length < idle.cfg.rxlen.toNat ∧
      decodeFrame coded.cfg (List.replicate 80 false) = .linecodeFail :=
  ⟨⟨by unfold Ready; decide, cfgLegal_idle, carries_idle 0xDE (by decide +kernel), carries_idle 0x5E (by decide +kernel),
      carries_idle 0x1E (by decide +kernel)⟩,
    by unfold Ready; decide, cfgLegal_coded, carries_coded, by decide +kernel⟩

theorem witness_ReceiveDropsAreCounted :
    Ready idle ∧ decodeFrame idle.cfg [] = .linecodeFail ∧
      decodeFrame idle.cfg (bitString [0x1E, 0xAD, 0xBE, 0xEF, 0x81, 0xDA, 0x1A, 0x18]) = .checksumFail ∧
      Ready rxqFull ∧ decodeFrame rxqFull.cfg goodBits = .ok [0xDE, 0xAD, 0xBE, 0xEF] ∧
      decodeFrame rxqFull.cfg (goodBits.modify 0 not) = .okCorrected [0xDE, 0xAD, 0xBE, 0xEF] ∧
      fullP rxqFull.build rxqFull.rxq = true := by
  unfold Ready; decide +kernel

theorem witness_ReceiveDelivers :
    Safety.Inv idle ∧ Ready idle ∧ decodeFrame idle.cfg goodBits = .ok [0xDE, 0xAD, 0xBE, 0xEF] ∧
      decodeFrame idle.cfg (goodBits.modify 0 not) = .okCorrected [0xDE, 0xAD, 0xBE, 0xEF] ∧
      fullP idle.build idle.rxq = false :=
  ⟨inv_idle, by unfold Ready; decide, by decide +kernel, by decide +kernel, by decide⟩

theorem witness_TransceiverEvents : Ready (sending 1 9) := by unfold Ready; decide

theorem witness_TickCountsDown :
    (Ready idle ∧ idle.timer.armed = false) ∧ Ready (sending 1 2) ∧ (sending 1 2).timer.armed = true ∧
      2 ≤ (sending 1 2).timer.count.toNat := by unfold Ready; decide

theorem witness_TickRepeatsTheFrame :
    Safety.Inv (sending 0 1) ∧ Ready (sending 0 1) ∧ (sending 0 1).timer.armed = true ∧
      (sending 0 1).timer.count.toNat = 1 ∧ (sending 0 1).sched.state = .sending ∧
      (sending 0 1).sched.rep.toNat < (sending 0 1).cfg.n.toNat ∧ (sending 0 1).answers.tx = true ∧
      Safety.Inv (setAnswers ⟨false, false⟩ (sending 0 1)) ∧ (setAnswers ⟨false, false⟩ (sending 0 1)).answers.tx = false :=
  ⟨inv_sending_first, by unfold Ready; decide, by decide, by decide, by decide, by decide, by decide,
    inv_of_check (by decide), rfl⟩

theorem witness_TickEndsTheSequence :
    (Safety.Inv (sending 2 1) ∧ Ready (sending 2 1) ∧ (sending 2 1).timer.armed = true ∧
      (sending 2 1).timer.count.toNat = 1 ∧ (sending 2 1).sched.state = .sending ∧
      (sending 2 1).sched.rep.toNat = (sending 2 1).cfg.n.toNat) ∧
      Safety.Inv (waiting 1) ∧ Ready (waiting 1) ∧ (waiting 1).timer.armed = true ∧
      (waiting 1).timer.count.toNat = 1 ∧ (waiting 1).sched.state = .waitGuard ∧
      countC (waiting 1).build (waiting 1).txq = 0 :=
  ⟨⟨inv_sending_last, by unfold Ready; decide, by decide, by decide, by decide, by decide⟩, inv_waiting,
    by unfold Ready; decide, by decide, by decide, by decide, by decide⟩

theorem witness_TickPullsTheOldestEntry :
    Safety.Inv queued ∧ Ready queued ∧ queued.timer.armed = true ∧ queued.timer.count.toNat = 1 ∧
      queued.sched.state = .waitGuard ∧ countC queued.build queued.txq ≠ 0 :=
  ⟨inv_queued, by unfold Ready; decide, by decide, by decide, by decide, by decide⟩

theorem witness_FaultEntryIsPrecise :
    (∃ t, exec .txqCommit idle = .next t) ∧ idle.fault.faulted = false ∧
      (after .txqCommit idle).fault.faulted = true := ⟨exists_next (by decide), by decide, by decide⟩

theorem witness_FaultStateAnswers :
    faulted.fault.faulted = true ∧ (cycleOf (.command 0)).cmd = some 0 ∧
      (cycleOf (.command 0x6000000A)).cmd = some 0x6000000A ∧
      (0x6000000A : Word) &&& 0xFFFFFF00 = 0x60000000 ∧
      csrValue ((0x6000000A : Word).extractLsb' 0 8) faulted = some 0x609 ∧
      (cycleOf (.command 0x60000006)).cmd = some 0x60000006 ∧
      csrValue ((0x60000006 : Word).extractLsb' 0 8) faulted = none ∧ (0x60000006 : Word) ≠ 0x00000000 := by decide

/-- The step of a state answers `next`. -/
def stepCompletes (s : State) : Bool :=
  match Machine.step s with
  | .next _ => true
  | .fault _ => false
  | .refused _ => false

theorem exists_step {s : State} (h : stepCompletes s = true) : ∃ t, Machine.step s = .next t := by
  unfold stepCompletes at h
  split at h
  · next t ht => exact ⟨t, ht⟩
  · simp at h
  · simp at h

theorem witness_FaultIsSticky :
    (∃ t, Machine.step (setInputs [fullCycle] faulted) = .next t) ∧ (setInputs [fullCycle] faulted).fault.faulted = true ∧
      (nextInput (setInputs [fullCycle] faulted)).rst = false ∧ faulted.build.cdcMode = .sync ∧
      (∃ t, Machine.step (setInputs [{ fullCycle with rst := true }] faulted) = .next t) ∧
      (nextInput (setInputs [{ fullCycle with rst := true }] faulted)).rst = true :=
  ⟨exists_step (by decide), by decide, by decide, by decide, exists_step (by decide), by decide⟩

theorem witness_UnconfiguredCommandsFault :
    opcodeOfInstr (.rxqRd 255) = some .rxqRd ∧ Opcode.rxqRd ≠ .nop ∧ Opcode.rxqRd ≠ .cfg ∧ Opcode.rxqRd ≠ .rdcsr ∧
      Opcode.rxqRd ≠ .clrcnt ∧ State.reset.fault.faulted = false ∧ State.reset.cfg.configured = false := by decide

theorem witness_EventsAndTicksGated :
    opcodeOfInstr (.evRxEom 64 goodBits) = none ∧ State.reset.cfg.configured = false ∧ opcodeOfInstr .tick = none ∧
      faulted.fault.faulted = true := by decide

theorem witness_OnlyCfgConfigures :
    (∃ t, exec (.cfg 0 2 4 .identity) State.reset = .next t) ∧
      (after (.cfg 0 2 4 .identity) State.reset).cfg ≠ State.reset.cfg := ⟨exists_next (by decide), by decide⟩

theorem witness_RingRoles :
    (∀ ident n plen codec, Instr.txqCommit ≠ .cfg ident n plen codec) ∧ (∃ t, exec .txqCommit reserved = .next t) ∧
      (after .txqCommit reserved).txq.w ≠ reserved.txq.w ∧
      (after .txqCommit reserved).txqReserved ≠ reserved.txqReserved ∧
      (∃ t, exec (.txqWr 3 9) reserved = .next t) ∧ (after (.txqWr 3 9) reserved).txq.mem ≠ reserved.txq.mem ∧
      (∃ t, exec .tick queued = .next t) ∧ (after .tick queued).txq.r ≠ queued.txq.r ∧
      (∃ t, exec (.evRxEom 64 goodBits) idle = .next t) ∧ (after (.evRxEom 64 goodBits) idle).rxq.w ≠ idle.rxq.w ∧
      (after (.evRxEom 64 goodBits) idle).rxq.mem ≠ idle.rxq.mem ∧ (∃ t, exec .rxqPop owned = .next t) ∧
      (after .rxqPop owned).rxq.r ≠ owned.rxq.r ∧ (after .rxqPop owned).rxqOslot ≠ owned.rxqOslot ∧
      (after .rxqPop rxqOne).rxqOwned ≠ rxqOne.rxqOwned :=
  ⟨by simp, exists_next (by decide), by decide, by decide, exists_next (by decide), by decide,
    exists_next (by decide +kernel), by decide +kernel, exists_next (by decide +kernel), by decide +kernel,
    by decide +kernel, exists_next (by decide), by decide, by decide, by decide⟩

theorem witness_FrameBufferLifetime :
    Safety.Inv (sending 2 1) ∧ (∃ t, exec .tick (sending 2 1) = .next t) ∧ (sending 2 1).sched.state = .sending ∧
      Safety.Inv (waiting 1) ∧ (∃ t, exec .send (waiting 1) = .next t) ∧ (waiting 1).sched.state = .waitGuard ∧
      (after .send (waiting 1)).sched.state = .waitGuard :=
  ⟨inv_sending_last, exists_next (by decide), by decide, inv_waiting, exists_next (by decide), by decide, by decide⟩

theorem witness_OwnedSlotIsProtected :
    Safety.Inv owned ∧ owned.rxqOwned = true ∧ Instr.evRxEom 64 goodBits ≠ .rxqPop ∧
      (∀ ident n plen codec, Instr.evRxEom 64 goodBits ≠ .cfg ident n plen codec) ∧
      (∃ t, exec (.evRxEom 64 goodBits) owned = .next t) ∧
      (after (.evRxEom 64 goodBits) owned).rxq.mem ≠ owned.rxq.mem :=
  ⟨inv_owned, by decide, by simp, by simp, exists_next (by decide +kernel), by decide +kernel⟩

theorem witness_IrqPinFollowsTheState :
    (∃ t, Machine.step (presenting (.command 0x60000009) rxqOne) = .next t) ∧
      (afterStep (presenting (.command 0x60000009) rxqOne)).irq = true := ⟨exists_step (by decide), by decide⟩

theorem witness_ResetHasInvariant : Config.tp1Gray.Valid := by decide

theorem witness_StepKeepsInvariant :
    Safety.Inv (setInputs [fullCycle] (sending 1 2)) ∧
      ∃ t, Machine.step (setInputs [fullCycle] (sending 1 2)) = .next t :=
  ⟨inv_of_check (by decide), exists_step (by decide)⟩

theorem witness_InvariantStepsComplete : Safety.Inv (setInputs [fullCycle] (sending 1 2)) := inv_of_check (by decide)

theorem witness_SchedulerInvariants :
    Safety.Inv (setInputs [fullCycle] (sending 1 2)) ∧
      (∃ t, Machine.step (setInputs [fullCycle] (sending 1 2)) = .next t) ∧
      (afterStep (setInputs [fullCycle] (sending 1 2))).fault.faulted = false :=
  ⟨inv_of_check (by decide), exists_step (by decide), by decide⟩

theorem witness_RingInvariants :
    (Safety.Inv reserved ∧ reserved.cfg.configured = true ∧ reserved.build.cdcMode = .sync ∧
      reserved.txqReserved = true) ∧ Safety.Inv owned ∧ owned.cfg.configured = true ∧ owned.rxqOwned = true ∧
      Safety.Inv lagging ∧ lagging.cfg.configured = true :=
  ⟨⟨inv_reserved, by decide, by decide, by decide⟩, inv_owned, by decide, by decide, inv_lagging, by decide⟩

theorem witness_TxqIsAQueue :
    (Safety.Inv queued ∧ queued.cfg.configured = true ∧ (∀ ident n plen codec, Instr.tick ≠ .cfg ident n plen codec) ∧
      ∃ t, exec .tick queued = .next t) ∧
      Safety.Inv reserved ∧ reserved.cfg.configured = true ∧
      (∀ ident n plen codec, Instr.txqCommit ≠ .cfg ident n plen codec) ∧ ∃ t, exec .txqCommit reserved = .next t :=
  ⟨⟨inv_queued, by decide, by simp, exists_next (by decide +kernel)⟩, inv_reserved, by decide, by simp,
    exists_next (by decide)⟩

theorem witness_RxqIsAQueue :
    (Safety.Inv owned ∧ owned.cfg.configured = true ∧
      (∀ ident n plen codec, Instr.rxqPop ≠ .cfg ident n plen codec) ∧ ∃ t, exec .rxqPop owned = .next t) ∧
      Safety.Inv owned ∧ owned.cfg.configured = true ∧
      (∀ ident n plen codec, Instr.evRxEom 64 goodBits ≠ .cfg ident n plen codec) ∧
      ∃ t, exec (.evRxEom 64 goodBits) owned = .next t :=
  ⟨⟨inv_owned, by decide, by simp, exists_next (by decide)⟩, inv_owned, by decide, by simp,
    exists_next (by decide +kernel)⟩

theorem witness_ZeroResidual : ([0x31, 0x32] : List Byte).length = ([0x00, 0x80] : List Byte).length := by decide

theorem witness_EccFailCannotOccur : CfgLegal idle.build idle.cfg := cfgLegal_idle

theorem witness_CodecRoundTrip :
    (CfgLegal idle.build idle.cfg ∧ ([0xDE, 0xAD, 0xBE, 0xEF] : List Byte).length = idle.cfg.plen.toNat ∧
      (List.replicate 8 false).length % idle.cfg.symbits.toNat = 0) ∧
      CfgLegal coded.build coded.cfg ∧ ([0xDE, 0xAD, 0xBE, 0xEF] : List Byte).length = coded.cfg.plen.toNat ∧
      (List.replicate 10 false).length % coded.cfg.symbits.toNat = 0 :=
  ⟨⟨cfgLegal_idle, by decide, by decide⟩, cfgLegal_coded, by decide, by decide⟩

theorem witness_SingleFlipIsCorrected :
    CfgLegal idle.build idle.cfg ∧ idle.cfg.codec = .identity ∧
      ([0xDE, 0xAD, 0xBE, 0xEF] : List Byte).length = idle.cfg.plen.toNat ∧ 63 < idle.cfg.rxlen.toNat ∧
      idle.cfg.rxlen.toNat = 64 := ⟨cfgLegal_idle, by decide, by decide, by decide, by decide⟩

theorem witness_WaitExpiresOnTheLastTick :
    Ready (sending 1 2) ∧ (sending 1 2).timer.armed = true ∧ (sending 1 2).radio.rxRestore = false ∧
      1 < (sending 1 2).timer.count.toNat ∧ 1 ≤ (sending 1 2).timer.count.toNat ∧
      2 = (sending 1 2).timer.count.toNat := by unfold Ready; decide

theorem witness_SequenceTiming :
    Safety.Inv idle ∧ Ready idle ∧ idle.sched.state = .idle ∧ idle.answers.tx = true ∧ idle.requests = [] ∧
      7999 < idle.cfg.n.toNat * (idle.cfg.kI.toNat * idle.cfg.delta.toNat) + idle.cfg.guard.toNat ∧
      countC idle.build idle.txq = 0 :=
  ⟨inv_idle, by unfold Ready; decide, by decide, by decide, by decide, by decide, by decide⟩

theorem witness_GrayCode : (1 ≤ 1 ∧ 1 ≤ 15 ∧ 1 < 2 ^ 1) ∧ 1 ≤ 15 ∧ 15 ≤ 15 ∧ 2 ^ 15 - 1 < 2 ^ 15 := by decide

theorem witness_ViewsCatchUp :
    0 < lagging.build.syncStages.toNat ∧ 1 < lagging.build.syncStages.toNat ∧ lagging.build.Valid ∧ lagging.build.cdcMode = .gray ∧ lagging.txq.rsync.length = lagging.build.syncStages.toNat ∧
      lagging.txq.wsync.length = lagging.build.syncStages.toNat ∧
      lagging.rxq.rsync.length = lagging.build.syncStages.toNat ∧
      lagging.rxq.wsync.length = lagging.build.syncStages.toNat := by decide

end Sys2Proof.Tests
end

/-! The configuration registers, which operations write them, the reset state and the fields of the CSR words (spec
10_state.md), and the statements settled from these. -/

namespace Sys2Proof.Safety

open Sys2Proof Sys2Proof.Machine
open Sys2Proof.Config (Build)

/-! ## What legal configuration registers hold

Each derived register against the formula of its rule: no value is cut off by the register's width. -/

/-- The two rows of the schedule table agree where both have an entry (40_scheduler.md R100). -/
theorem multiplier_eq_getD {n i : Nat} (hn : n = 2 ∨ n = 3) (hi : i < n) : multiplier n i = [2, 3, 5].getD i 0 := by
  rcases hn with rfl | rfl <;> interval_cases i <;> rfl

/-- The longest frame's length fits 16 bits. -/
theorem framebitsOf_lt (codec : LineCode) (plen : BitVec 8) : framebitsOf codec plen.toNat < 2 ^ 16 := by
  have := plen.isLt
  cases codec <;> simp only [framebitsOf, symbitsOf] <;> omega

namespace CfgLegal

variable {b : Build} {c : CfgRegs}

theorem symbits_toNat (h : CfgLegal b c) : c.symbits.toNat = symbitsOf c.codec := by
  rw [show c.symbits = BitVec.ofNat 4 (symbitsOf c.codec) from congrArg CfgRegs.symbits h.derived]
  cases c.codec <;> rfl

theorem frameBits_toNat (h : CfgLegal b c) : c.frameBits.toNat = framebitsOf c.codec c.plen.toNat := by
  rw [show c.frameBits = BitVec.ofNat 16 (framebitsOf c.codec c.plen.toNat) from
    congrArg CfgRegs.frameBits h.derived, BitVec.toNat_ofNat, Nat.mod_eq_of_lt (framebitsOf_lt c.codec c.plen)]

theorem txlen_toNat (h : CfgLegal b c) : c.txlen.toNat = txlenOf c.codec c.plen.toNat := by
  rw [show c.txlen = BitVec.ofNat 16 (txlenOf c.codec c.plen.toNat) from
    congrArg CfgRegs.txlen h.derived, BitVec.toNat_ofNat, txlenOf]
  have := framebitsOf_lt c.codec c.plen
  omega

theorem rxlen_toNat (h : CfgLegal b c) : c.rxlen.toNat = rxlenOf c.codec c.plen.toNat := by
  rw [show c.rxlen = BitVec.ofNat 16 (rxlenOf c.codec c.plen.toNat) from
    congrArg CfgRegs.rxlen h.derived, BitVec.toNat_ofNat, rxlenOf]
  have := framebitsOf_lt c.codec c.plen
  unfold framebitsOf at this
  omega

theorem crcL_toNat (h : CfgLegal b c) : c.crcL.toNat = c.plen.toNat + 4 := by
  rw [show c.crcL = BitVec.ofNat 16 (c.plen.toNat + 4) from congrArg CfgRegs.crcL h.derived, BitVec.toNat_ofNat]
  have := c.plen.isLt
  omega

theorem kI_toNat (h : CfgLegal b c) : c.kI.toNat = multiplier c.n.toNat c.i.toNat := by
  rw [show c.kI = BitVec.ofNat 8 (multiplier c.n.toNat c.i.toNat) from congrArg CfgRegs.kI h.derived]
  have hi := h.ident
  rcases h.station with hn | hn <;> rw [hn] at hi ⊢ <;> interval_cases c.i.toNat <;> rfl

theorem kMax_toNat (h : CfgLegal b c) : c.kMax.toNat = kmaxOf c.n.toNat := by
  rw [show c.kMax = BitVec.ofNat 8 (kmaxOf c.n.toNat) from congrArg CfgRegs.kMax h.derived]
  rcases h.station with hn | hn <;> rw [hn] <;> rfl

/-- The multiplier by the station's number (40_scheduler.md R100). -/
theorem kI_of_ident (h : CfgLegal b c) :
    (c.i.toNat = 0 → c.kI = 2) ∧ (c.i.toNat = 1 → c.kI = 3) ∧ (c.i.toNat = 2 → c.kI = 5) := by
  have hk := h.kI_toNat.trans (multiplier_eq_getD h.station h.ident)
  exact ⟨fun hi => BitVec.eq_of_toNat_eq (by rw [hk, hi]; rfl),
    fun hi => BitVec.eq_of_toNat_eq (by rw [hk, hi]; rfl), fun hi => BitVec.eq_of_toNat_eq (by rw [hk, hi]; rfl)⟩

/-- The largest multiplier by the station count (40_scheduler.md R100). -/
theorem kMax_of_station (h : CfgLegal b c) : (c.n.toNat = 2 → c.kMax = 3) ∧ (c.n.toNat = 3 → c.kMax = 5) :=
  ⟨fun hn => BitVec.eq_of_toNat_eq (by rw [h.kMax_toNat, hn]; rfl),
    fun hn => BitVec.eq_of_toNat_eq (by rw [h.kMax_toNat, hn]; rfl)⟩

/-- `K_I` is an entry of the row of which `KMAX` is the maximum. -/
theorem kI_le_kMax (h : CfgLegal b c) : c.kI.toNat ≤ c.kMax.toNat := by
  rw [h.kI_toNat, h.kMax_toNat]
  have hi := h.ident
  rcases h.station with hn | hn <;> rw [hn] at hi ⊢ <;> interval_cases c.i.toNat <;> decide

theorem guard_toNat (h : CfgLegal b c) : c.guard.toNat = guardOf b c.codec c.n.toNat c.plen.toNat := by
  rw [show c.guard = BitVec.ofNat 32 (guardOf b c.codec c.n.toNat c.plen.toNat) from
    congrArg CfgRegs.guard h.derived, BitVec.toNat_ofNat]
  have := h.timing
  omega

/-- `DELTA` fits its register, because it is no larger than `GUARD`. -/
theorem delta_toNat (h : CfgLegal b c) : c.delta.toNat = deltaOf b c.codec c.plen.toNat := by
  rw [show c.delta = BitVec.ofNat 32 (deltaOf b c.codec c.plen.toNat) from
    congrArg CfgRegs.delta h.derived, BitVec.toNat_ofNat]
  have hg : guardOf b c.codec c.n.toNat c.plen.toNat ≤ 2 ^ 32 - 1 := h.timing
  have hle : deltaOf b c.codec c.plen.toNat ≤ guardOf b c.codec c.n.toNat c.plen.toNat :=
    Nat.le_mul_of_pos_left _ (Nat.succ_pos _)
  omega

/-- `GUARD` as a number of `DELTA`s (40_scheduler.md R102). -/
theorem guard_eq_mul_delta (h : CfgLegal b c) :
    c.guard.toNat = (c.kMax.toNat * (c.n.toNat - 1) + 1) * c.delta.toNat := by
  rw [h.guard_toNat, h.kMax_toNat, h.delta_toNat]; rfl

/-- A frame takes at least one byte, and a byte at least eight ticks (40_scheduler.md R101). -/
theorem eight_le_delta (h : CfgLegal b c) (hb : b.Valid) : 8 ≤ c.delta.toNat := by
  obtain ⟨_, _, hticks, _⟩ := hb
  have hlen : 1 ≤ txlenOf c.codec c.plen.toNat := by unfold txlenOf framebitsOf; omega
  rw [h.delta_toNat]
  calc 8 = 1 * 8 * 1 := rfl
    _ ≤ txlenOf c.codec c.plen.toNat * 8 * b.ticksPerBit.toNat := by gcongr
    _ ≤ deltaOf b c.codec c.plen.toNat := Nat.le_add_right _ _

/-- The guard time is longer than the longest period (40_scheduler.md R102). -/
theorem kMax_mul_delta_lt_guard (h : CfgLegal b c) (hb : b.Valid) :
    c.kMax.toNat * c.delta.toNat < c.guard.toNat := by
  rw [h.guard_eq_mul_delta]
  have hn : 1 ≤ c.n.toNat - 1 := by have := h.station; omega
  have := h.eight_le_delta hb
  calc c.kMax.toNat * c.delta.toNat
      ≤ c.kMax.toNat * (c.n.toNat - 1) * c.delta.toNat :=
        Nat.mul_le_mul_right _ (Nat.le_mul_of_pos_right _ hn)
    _ < (c.kMax.toNat * (c.n.toNat - 1) + 1) * c.delta.toNat := Nat.mul_lt_mul_of_pos_right (by omega) (by omega)

end CfgLegal

end Sys2Proof.Safety

namespace Sys2Proof.Machine

open Sys2Proof Sys2Proof.Safety
open Sys2Proof.Config (Build)

/-! ## An accepted CFG -/

/-- `GUARD` by the numbers of R102 and by the schedule table of R100. -/
theorem guardTicks_eq_guardOf (b : Build) (codec : LineCode) {n : Nat} (plen : Nat) (hn : n = 2 ∨ n = 3) :
    guardTicks b codec n plen = guardOf b codec n plen := by
  have hd : deltaTicks b codec plen = deltaOf b codec plen := by cases codec <;> rfl
  unfold guardTicks guardOf
  rw [hd]
  rcases hn with rfl | rfl <;> rfl

/-- A check that raises nothing has passed, and so have those after it. -/
theorem check_eq_none {p : Prop} [Decidable p] {c : Cause} {rest : Option Cause} :
    (if p then some c else rest) = none ↔ ¬p ∧ rest = none := by
  split <;> simp [*]

/-- The checks of `CFG` all pass exactly for the operands R111 accepts. -/
theorem cfgCheck_eq_none_iff {i n plen : BitVec 8} {codec : LineCode} {s : State} (hf : s.fault.faulted = false) :
    cfgCheck i n plen codec s = none ↔ CfgAccepted s i n plen codec := by
  simp only [cfgCheck, check_eq_none, not_not, and_true]
  constructor
  · rintro ⟨hidle, hn, hi, hp, hr, ht⟩
    rw [← guardTicks_eq_guardOf _ _ _ hn] at ht
    exact ⟨hf, hidle, hn, by omega, by omega, by omega, by omega, by omega⟩
  · rintro ⟨_, hidle, hn, hi, hp, hp', hr, ht⟩
    rw [guardTicks_eq_guardOf _ _ _ hn] at ht
    exact ⟨hidle, hn, by omega, by omega, by omega, by omega⟩

@[simp] theorem cfgApply_build (i n plen : BitVec 8) (codec : LineCode) (s : State) :
    (cfgApply i n plen codec s).build = s.build := rfl

@[simp] theorem cfgApply_cfg (i n plen : BitVec 8) (codec : LineCode) (s : State) :
    (cfgApply i n plen codec s).cfg = cfgRegsOf s.build i n plen codec := rfl

@[simp] theorem cfgApply_fault (i n plen : BitVec 8) (codec : LineCode) (s : State) :
    (cfgApply i n plen codec s).fault = s.fault := rfl

/-- An accepted `CFG` completes, and its idle entry finds the new TXQ empty (R111, R109). -/
theorem exec_cfg_accepted {i n plen : BitVec 8} {codec : LineCode} {s : State} (h : CfgAccepted s i n plen codec) :
    exec (.cfg i n plen codec) s =
      .next (respond false 0 (count .txqEmptyPull (restoreRx (cfgApply i n plen codec s)))) := by
  have hidle : idleEntry (restoreRx (cfgApply i n plen codec s)) =
      .next (count .txqEmptyPull (restoreRx (cfgApply i n plen codec s))) := by
    refine idleEntry_eq_next.2 (.inl ⟨?_, rfl⟩)
    rw [restoreRx_build, restoreRx_txq]
    exact countC_ringCreate s.build plen s.txq
  change execCfg i n plen codec s = _
  unfold execCfg
  rw [command_ready h.notFaulted (by simp [needsConfig]), (cfgCheck_eq_none_iff h.notFaulted).2 h, hidle]
  rfl

/-- What an accepted `CFG` writes is a legal configuration. -/
theorem cfgLegal_of_accepted {i n plen : BitVec 8} {codec : LineCode} {s : State}
    (h : CfgAccepted s i n plen codec) : CfgLegal s.build (cfgRegsOf s.build i n plen codec) where
  station := h.station
  ident := h.ident
  plenPos := h.plenPos
  plenMax := h.plenMax
  slots := h.slots
  timing := (guardTicks_eq_guardOf s.build codec plen.toNat h.station) ▸ h.timing
  derived := rfl

/-! ## Which operations write the configuration -/

/-- A reception leaves the build and the configuration alone (41_codec.md R164). -/
theorem receive_keeps_config {res : DecodeResult} {s t : State} (h : receive res s = .next t) :
    t.build = s.build ∧ t.cfg = s.cfg := by
  have hdeliver : ∀ (p : List Byte) (c : Counter), rxqDeliver p (count c s) = .next t →
      t.build = s.build ∧ t.cfg = s.cfg := by
    intro p c hd
    rcases rxqDeliver_eq_next.1 hd with ⟨_, rfl⟩ | ⟨_, _, rfl⟩ <;> exact ⟨rfl, rfl⟩
  cases res with
  | linecodeFail | checksumFail | eccFail => cases h; exact ⟨rfl, rfl⟩
  | ok p => exact hdeliver p _ h
  | okCorrected p => exact hdeliver p _ h

/-- A `CFG` that acts leaves the build alone and does not fault. -/
theorem acts_cfg_frame {i n plen : BitVec 8} {codec : LineCode} {s t : State} (h : Acts (.cfg i n plen codec) s t) :
    t.build = s.build ∧ t.fault.faulted = false := by
  obtain ⟨hf, _, rfl⟩ := h
  simp [hf]

/-- No operation but `CFG` acts on the build or the configuration. -/
theorem acts_keeps_config {i : Instr} {s t : State} (hi : opcodeOfInstr i ≠ some .cfg) (h : Acts i s t) :
    t.build = s.build ∧ t.cfg = s.cfg := by
  cases i with
  | cfg => exact absurd rfl hi
  | nop => cases h; exact ⟨rfl, rfl⟩
  | send =>
    obtain ⟨_, ⟨rfl, _⟩ | ⟨_, _, _, u, hu, rfl⟩⟩ := h
    · exact ⟨rfl, rfl⟩
    · rw [startSend_frame hu]; exact ⟨rfl, rfl⟩
  | txqReserve => obtain ⟨_, _, ⟨_, rfl⟩ | ⟨_, rfl⟩⟩ := h <;> exact ⟨rfl, rfl⟩
  | rxqPop => obtain ⟨_, ⟨_, rfl⟩ | ⟨_, rfl⟩⟩ := h <;> exact ⟨rfl, rfl⟩
  | stageWr => obtain ⟨_, _, _, rfl⟩ := h; exact ⟨rfl, rfl⟩
  | txqWr | rxqRd => obtain ⟨_, _, _, _, rfl⟩ := h; exact ⟨rfl, rfl⟩
  | txqCommit | txqAbandon => obtain ⟨_, _, rfl⟩ := h; exact ⟨rfl, rfl⟩
  | rdcsr => obtain ⟨_, _, _, rfl⟩ := h; exact ⟨rfl, rfl⟩
  | txqCount | rxqCount | clrcnt | evTxEmpty | evTxReady | evTxError => obtain ⟨_, rfl⟩ := h; exact ⟨rfl, rfl⟩
  | evRxEom => exact receive_keeps_config h.2
  | tick =>
    obtain ⟨_, ht⟩ := h
    rw [countdown_frame ht]
    simp

/-! ## Reset -/

/-- Every register of a synchroniser chain is 0 right after it was cleared (R56). -/
theorem eq_zero_of_mem_clearedChain {b : Config.Build} {g : BitVec 16} (h : g ∈ clearedChain b) : g = 0 := by
  unfold clearedChain at h
  split at h
  · cases h
  · exact List.eq_of_mem_replicate h

/-- After a reset cycle no memory lists a byte (R58). -/
theorem memOf_resetCycle (k : MemKind) (s : State) : memOf k (resetCycle s) = [] := by cases k <;> rfl

/-- A cycle with `rst` presented is the reset of the opened state, whatever else is presented. -/
theorem step_of_rst {s : State} (h : (nextInput s).rst = true) :
    Machine.step s = .next (resetCycle (openCycle s)) := by
  unfold Machine.step cycle
  exact if_pos h

end Sys2Proof.Machine

namespace Sys2Proof.Safety

open Sys2Proof Sys2Proof.Machine

/-- A ring at reset has the shape of an unconfigured ring. -/
theorem ringShape_reset (b : Config.Build) : RingShape b .reset (.reset b) where
  rsyncLen := rfl
  wsyncLen := rfl
  entry := rfl
  slots := rfl
  wBound := nofun
  rBound := nofun
  wZero _ := rfl
  rZero _ := rfl

/-- The reset state of a legal build has the invariant, whatever the agents will present: every memory is unwritten,
nothing is configured, both rings are empty and the scheduler is Idle. -/
theorem inv_resetOf {b : Config.Build} (hb : b.Valid) (l : List CycleIn) :
    Inv { State.resetOf b with inputs := l } where
  build := hb
  mem k := by cases k <;> exact ⟨rfl, rfl⟩
  config := ⟨nofun, fun _ => rfl⟩
  ring := {
    txqShape := ringShape_reset b
    rxqShape := ringShape_reset b
    txqLag := nofun
    rxqLag := nofun
    reserved := nofun
    owned := nofun }
  written := .of_empty rfl rfl
  sched := {
    valid := ⟨nofun, nofun⟩
    armed _ := ⟨nofun, fun h => absurd rfl h⟩
    stopped _ := rfl
    repMax := Nat.le_refl 0
    repIdle _ := rfl
    repGuard := nofun
    countMax := Nat.le_refl 0
    countZero _ := rfl
    countPos := nofun
    unconfigured _ := ⟨rfl, rfl⟩ }
  fault := ⟨fun _ => ⟨rfl, rfl⟩, nofun⟩

end Sys2Proof.Safety

namespace Sys2Proof.Machine

open Sys2Proof
open Sys2Proof.Config (Build)

/-! ## The fields of the CSR words -/

/-- A field read out of a word, from the word's bits. -/
theorem field_eq_of_bits {w n : Nat} {v : BitVec w} {lo : Nat} {x : BitVec n}
    (h : ∀ k < n, v.getLsbD (lo + k) = x.getLsbD k) : v.extractLsb' lo n = x :=
  BitVec.eq_of_getLsbD_eq fun k hk => by simpa [hk] using h k hk

theorem cdcBit_getLsbD_zero (m : Config.CdcMode) : (cdcBit m).getLsbD 0 = decide (m = .gray) := by cases m <;> rfl

theorem codecBit_getLsbD_zero (c : LineCode) : (codecBit c).getLsbD 0 = decide (c = .eightTenB) := by cases c <;> rfl

theorem stagesShown_eq (b : Build) : stagesShown b = if b.cdcMode = .gray then b.syncStages else 0 := by
  unfold stagesShown; cases b.cdcMode <;> rfl

/-- `PARAM0` field by field (R42). -/
theorem param0_fields (b : Build) :
    (param0 b).extractLsb' 0 8 = b.payloadMax ∧ (param0 b).extractLsb' 8 8 = 3 ∧
      (param0 b).getLsbD 16 = decide (b.cdcMode = .gray) ∧ (param0 b).extractLsb' 17 7 = 0 ∧
      (param0 b).extractLsb' 24 4 = (if b.cdcMode = .gray then b.syncStages else 0) ∧
      (param0 b).extractLsb' 28 4 = 0 := by
  rw [← stagesShown_eq, ← cdcBit_getLsbD_zero]
  refine ⟨field_eq_of_bits fun k hk => ?_, field_eq_of_bits fun k hk => ?_, ?_, field_eq_of_bits fun k hk => ?_,
    field_eq_of_bits fun k hk => ?_, field_eq_of_bits fun k hk => ?_⟩ <;> rw [param0_getLsbD] <;> grind

/-- `CONFIG` field by field (R44). -/
theorem configWord_fields (c : CfgRegs) :
    (configWord c).extractLsb' 0 8 = c.i ∧ (configWord c).extractLsb' 8 8 = c.n ∧
      (configWord c).extractLsb' 16 8 = c.plen ∧ (configWord c).getLsbD 24 = decide (c.codec = .eightTenB) ∧
      (configWord c).extractLsb' 25 6 = 0 ∧ (configWord c).getLsbD 31 = c.configured := by
  rw [← codecBit_getLsbD_zero]
  refine ⟨field_eq_of_bits fun k hk => ?_, field_eq_of_bits fun k hk => ?_, field_eq_of_bits fun k hk => ?_, ?_,
    field_eq_of_bits fun k hk => ?_, ?_⟩ <;> rw [configWord_getLsbD] <;> grind [flag_getLsbD]

/-- `STATUS` field by field (R45). -/
theorem statusWord_fields (s : State) :
    (statusWord s).extractLsb' 0 2 = stateCode s.sched.state ∧ (statusWord s).getLsbD 2 = s.sched.valid ∧
      (statusWord s).getLsbD 3 = false ∧ (statusWord s).extractLsb' 4 4 = s.sched.rep ∧
      (statusWord s).getLsbD 8 = s.radio.radioTx ∧ (statusWord s).getLsbD 9 = s.radio.rxRestore ∧
      (statusWord s).getLsbD 10 = s.timer.armed ∧ (statusWord s).getLsbD 11 = s.txqReserved ∧
      (statusWord s).getLsbD 12 = s.rxqOwned ∧ (statusWord s).getLsbD 13 = irqOf s ∧
      (statusWord s).extractLsb' 14 17 = 0 ∧ (statusWord s).getLsbD 31 = s.fault.faulted := by
  refine ⟨field_eq_of_bits fun k hk => ?_, ?_, ?_, field_eq_of_bits fun k hk => ?_, ?_, ?_, ?_, ?_, ?_, ?_,
    field_eq_of_bits fun k hk => ?_, ?_⟩ <;> rw [statusWord_getLsbD] <;> grind [flag_getLsbD]

/-- `FAULT` field by field (R46). -/
theorem faultWord_fields (f : FaultRegs) :
    (faultWord f).extractLsb' 0 8 = f.cause ∧ (faultWord f).extractLsb' 8 5 = f.op ∧
      (faultWord f).extractLsb' 13 19 = 0 := by
  refine ⟨field_eq_of_bits fun k hk => ?_, field_eq_of_bits fun k hk => ?_, field_eq_of_bits fun k hk => ?_⟩ <;>
    rw [faultWord_getLsbD] <;> grind

/-- `RXQ_OSLOT` field by field (R50). -/
theorem oslotWord_fields (s : State) :
    (oslotWord s).extractLsb' 0 16 = s.rxqOslot ∧ (oslotWord s).extractLsb' 16 15 = 0 ∧
      (oslotWord s).getLsbD 31 = s.rxqOwned := by
  refine ⟨field_eq_of_bits fun k hk => ?_, field_eq_of_bits fun k hk => ?_, ?_⟩ <;>
    rw [oslotWord_getLsbD] <;> grind [flag_getLsbD]

/-- The two halves of a word (R43, R47, R49, R50). -/
theorem halves_fields (hi lo : BitVec 16) :
    (hi ++ lo : Word).extractLsb' 0 16 = lo ∧ (hi ++ lo : Word).extractLsb' 16 16 = hi :=
  ⟨BitVec.extractLsb'_append_eq_right, BitVec.extractLsb'_append_eq_left⟩

/-- `TXQ_INFO` and `RXQ_INFO` read 0 while unconfigured and else hold the count and the capacity (R49, R50). -/
theorem infoWord_fields (configured : Bool) (q : Ring) (cnt : Nat) :
    (configured = false → infoWord configured q cnt = 0) ∧
      (configured = true → (infoWord configured q cnt).extractLsb' 0 16 = BitVec.ofNat 16 cnt ∧
        (infoWord configured q cnt).extractLsb' 16 16 = BitVec.ofNat 16 (q.n.toNat - 1)) := by
  cases configured with
  | false => exact ⟨fun _ => rfl, nofun⟩
  | true => exact ⟨nofun, fun _ => halves_fields _ _⟩

/-- `PREAMBLE` field by field (R43). -/
theorem preambleWord_fields (p : BitVec 24) :
    ((0 : BitVec 8) ++ p : Word).extractLsb' 0 24 = p ∧ ((0 : BitVec 8) ++ p : Word).extractLsb' 24 8 = 0 :=
  ⟨BitVec.extractLsb'_append_eq_right, BitVec.extractLsb'_append_eq_left⟩

/-- `SCHED` field by field (R48). -/
theorem schedWord_fields (kMax kI : BitVec 8) :
    ((0 : BitVec 16) ++ kMax ++ kI : Word).extractLsb' 0 8 = kI ∧
      ((0 : BitVec 16) ++ kMax ++ kI : Word).extractLsb' 8 8 = kMax ∧
      ((0 : BitVec 16) ++ kMax ++ kI : Word).extractLsb' 16 16 = 0 := by
  have hbits : ∀ k, ((0 : BitVec 16) ++ kMax ++ kI : Word).getLsbD k =
      if k < 8 then kI.getLsbD k else if k < 16 then kMax.getLsbD (k - 8) else false := by
    intro k
    erw [BitVec.getLsbD_append, BitVec.getLsbD_append]
    grind
  refine ⟨field_eq_of_bits fun k hk => ?_, field_eq_of_bits fun k hk => ?_, field_eq_of_bits fun k hk => ?_⟩ <;>
    rw [hbits] <;> grind

end Sys2Proof.Machine

namespace Sys2Proof.Proofs.CoreState

open Sys2Proof Sys2Proof.Machine Sys2Proof.Safety

/-- Settles O11: each address answers its word, and each word holds its fields. -/
theorem csrFieldLayout : Obligations.CsrFieldLayout := by
  intro s
  refine ⟨rfl, ⟨_, rfl, param0_fields s.build⟩, ⟨_, rfl, halves_fields 0 s.build.ringBytes⟩, rfl, rfl,
    ⟨_, rfl, preambleWord_fields s.build.preamble⟩, ⟨_, rfl, configWord_fields s.cfg⟩,
    ⟨_, rfl, statusWord_fields s⟩, ⟨_, rfl, faultWord_fields s.fault⟩,
    ⟨_, rfl, halves_fields s.cfg.rxlen s.cfg.txlen⟩, rfl, ⟨_, rfl, schedWord_fields s.cfg.kMax s.cfg.kI⟩, rfl, rfl,
    ⟨_, rfl, halves_fields s.txq.r s.txq.w⟩, ⟨_, rfl, infoWord_fields _ _ _⟩,
    ⟨_, rfl, halves_fields s.rxq.r s.rxq.w⟩, ⟨_, rfl, infoWord_fields _ _ _⟩, ⟨_, rfl, oslotWord_fields s⟩, ?_⟩
  simp only [List.forall_mem_cons, List.not_mem_nil]
  exact ⟨rfl, rfl, rfl, rfl, rfl, rfl, rfl, rfl, rfl, rfl, rfl, rfl, rfl, nofun⟩

/-- Settles O14: the registers an accepted `CFG` writes are legal, and legal registers hold their formulas' values. -/
theorem cfgDerivedRegisters : Obligations.CfgDerivedRegisters := by
  intro i n plen codec s hb h
  refine ⟨_, exec_cfg_accepted h, ?_⟩
  simp only [respond_cfg, count_cfg, restoreRx_cfg, cfgApply_cfg]
  have hl : CfgLegal s.build (cfgRegsOf s.build i n plen codec) := cfgLegal_of_accepted h
  obtain ⟨hk0, hk1, hk2⟩ := hl.kI_of_ident
  obtain ⟨hm2, hm3⟩ := hl.kMax_of_station
  refine ⟨rfl, rfl, rfl, rfl, rfl, ?_, ?_, ?_, ?_, hl.crcL_toNat, ?_, hk0, hk1, hk2, hm2, hm3, hl.guard_eq_mul_delta,
    Nat.mul_le_mul_right _ hl.kI_le_kMax, hl.kMax_mul_delta_lt_guard hb, hl.eight_le_delta hb⟩
  · rw [hl.symbits_toNat]; cases codec <;> rfl
  · rw [hl.frameBits_toNat, hl.symbits_toNat]; rfl
  · rw [hl.txlen_toNat, hl.frameBits_toNat]; rfl
  · rw [hl.rxlen_toNat, hl.symbits_toNat]; rfl
  · rw [hl.delta_toNat, hl.txlen_toNat]; rfl

/-- Settles O38: of the ways an operation can end only an acting `CFG` touches the configuration, and it does not
fault. -/
theorem onlyCfgConfigures : Obligations.OnlyCfgConfigures := by
  intro i s t h
  cases exec_ends h with
  | ignored _ _ ht => subst ht; exact ⟨rfl, fun hc => absurd rfl hc⟩
  | refused op _ _ ht => rw [ht]; exact ⟨rfl, fun hc => absurd rfl hc⟩
  | faulted op c _ _ ht => subst ht; exact ⟨rfl, fun hc => absurd rfl hc⟩
  | acted ha =>
    by_cases hi : opcodeOfInstr i = some .cfg
    · cases i with
      | cfg ident n plen codec =>
        obtain ⟨hbuild, hfault⟩ := acts_cfg_frame ha
        exact ⟨hbuild, fun _ => ⟨hfault, ident, n, plen, codec, rfl⟩⟩
      | _ => cases hi
    · obtain ⟨hbuild, hcfg⟩ := acts_keeps_config hi ha
      exact ⟨hbuild, fun hc => absurd hcfg hc⟩

/-- Settles O7: the state after a reset cycle is the build's reset state but for the inputs and the draws. -/
theorem resetCycle : Obligations.ResetCycle := by
  intro s h
  have hmem : ∀ k a, (memOf k (Machine.resetCycle (openCycle s))).read? a = none := by
    intro k a; rw [memOf_resetCycle]; rfl
  have hchain : ∀ g ∈ clearedChain s.build ++ clearedChain s.build ++ clearedChain s.build ++ clearedChain s.build,
      g = 0 := by
    intro g hg
    simp only [List.mem_append, or_self] at hg
    exact eq_zero_of_mem_clearedChain hg
  exact ⟨_, step_of_rst h, rfl, rfl, rfl, rfl, hmem, ⟨rfl, rfl, rfl, rfl⟩, ⟨rfl, rfl, rfl, rfl⟩, hchain,
    rfl, rfl, rfl, rfl, fun c => by cases c <;> rfl, rfl, rfl, rfl, rfl⟩

/-- Settles O43: `State.reset` is the reset state of the build TP1 with no input to come. -/
theorem resetHasInvariant : Obligations.ResetHasInvariant :=
  ⟨inv_resetOf (b := Config.tp1) (by decide) [], fun _ l hb => inv_resetOf hb l⟩

end Sys2Proof.Proofs.CoreState

/-! The memories' lifetimes (spec 20_memory.md): which operations write `FRAME_BUF` (R74), which touch RXQ's region and
the ownership of its entry (R76), and the statements settled from these. -/

namespace Sys2Proof.Machine

open Sys2Proof Sys2Proof.Safety
open Sys2Proof.Config (Build)

/-! ## What a step that does not act, and a reception, can do -/

/-- An operation that does not act touches the fault registers, the timer and the response at most. -/
theorem exec_acts_or_frame {i : Instr} {s t : State} (h : exec i s = .next t) :
    Acts i s t ∨ t = { s with fault := t.fault, timer := t.timer, rsp := t.rsp } := by
  cases exec_ends h with
  | ignored _ _ ht => subst ht; exact .inr rfl
  | refused _ _ _ ht => rw [ht]; exact .inr rfl
  | faulted _ _ _ _ ht => subst ht; exact .inr rfl
  | acted ha => exact .inl ha

/-- A reception counts, and at most stores one entry in the slot at RXQ's write cursor and publishes it, where the
ring has room (R75, 42_ring.md R195). -/
theorem receive_cases {res : DecodeResult} {s t : State} (h : receive res s = .next t) :
    ∃ c, t = { s with cnt := c } ∨
      ∃ p : List Byte, fullP s.build s.rxq = false ∧ p.length ≤ s.rxq.e.toNat ∧
        t = { s with
          cnt := c
          rxq := { s.rxq with
            mem := s.rxq.mem.writeBytes (slotBase s.rxq s.rxq.w) p, w := nextSlot s.rxq s.rxq.w } } := by
  cases res with
  | linecodeFail | checksumFail | eccFail => cases h; exact ⟨_, .inl rfl⟩
  | ok p | okCorrected p =>
    rcases rxqDeliver_eq_next.1 h with ⟨_, rfl⟩ | ⟨hroom, _, rfl⟩
    · exact ⟨_, .inl rfl⟩
    · exact ⟨_, .inr ⟨p.take s.rxq.e.toNat, hroom, List.length_take_le _ _, rfl⟩⟩

/-! ## Who writes FRAME_BUF (R74) -/

/-- `start_send` ends in Sending: with a station to send for, the first repetition is due at once (40_scheduler.md
R110, R105). -/
theorem startSend_state {p : List Byte} {s t : State} (h : startSend p s = .next t) (hn : 0 < s.cfg.n.toNat) :
    t.sched.state = .sending := by
  obtain ⟨_, hd⟩ := startSend_eq_next.1 h
  rcases dispatchSending_eq_next.1 hd with ⟨_, hr⟩ | ⟨hle, _⟩
  · rw [repetition_frame hr]; rfl
  · exact absurd hle (Nat.not_le.2 hn)

/-- Idle entry writes `FRAME_BUF` only where it enters Sending (40_scheduler.md R109). -/
theorem idleEntry_frameBuf {s t : State} (h : idleEntry s = .next t) (hn : 0 < s.cfg.n.toNat) :
    t.frameBuf = s.frameBuf ∨ t.sched.state = .sending := by
  rcases idleEntry_eq_next.1 h with ⟨_, rfl⟩ | ⟨_, _, hs⟩
  · exact .inl rfl
  · exact .inr (startSend_state hs hn)

/-- An expiry writes `FRAME_BUF` only where it leaves WaitGuard for Sending (40_scheduler.md R105, R108). -/
theorem dispatch_frameBuf {s t : State} (h : dispatch s = .next t) (hn : 0 < s.cfg.n.toNat) :
    t.frameBuf = s.frameBuf ∨ s.sched.state = .waitGuard ∧ t.sched.state = .sending := by
  rcases dispatch_eq_next.1 h with ⟨_, hs⟩ | ⟨hw, hi⟩ | ⟨_, rfl⟩
  · rw [dispatchSending_frame hs]; exact .inl rfl
  · exact (idleEntry_frameBuf hi hn).imp_right fun hs => ⟨hw, hs⟩
  · exact .inl rfl

/-- So does a tick. -/
theorem countdown_frameBuf {s t : State} (h : countdown s = .next t) (hn : 0 < s.cfg.n.toNat) :
    t.frameBuf = s.frameBuf ∨ s.sched.state = .waitGuard ∧ t.sched.state = .sending := by
  rcases countdown_eq_next.1 h with ⟨_, rfl⟩ | ⟨_, _, rfl⟩ | ⟨_, _, hd⟩
  · exact .inl rfl
  · exact .inl rfl
  · exact dispatch_frameBuf (s := setTimer ⟨false, 0⟩ s) hd hn

@[simp] theorem cfgApply_frameBuf (i n plen : BitVec 8) (codec : LineCode) (s : State) :
    (cfgApply i n plen codec s).frameBuf = s.frameBuf := rfl

/-- An operation writes `FRAME_BUF` only from Idle, or on the way from WaitGuard to Sending (R74). -/
theorem acts_frameBuf {i : Instr} {s t : State} (hn : s.cfg.configured = true → 0 < s.cfg.n.toNat)
    (h : Acts i s t) :
    t.frameBuf = s.frameBuf ∨ s.sched.state = .idle ∨ s.sched.state = .waitGuard ∧ t.sched.state = .sending := by
  cases i with
  | send =>
    obtain ⟨_, ⟨rfl, _⟩ | ⟨hidle, _⟩⟩ := h
    · exact .inl rfl
    · exact .inr (.inl hidle)
  | tick =>
    obtain ⟨⟨hc, _⟩, ht⟩ := h
    have := countdown_frameBuf ht (by simpa using hn hc)
    rw [afterRetry_frameBuf, afterRetry_sched] at this
    exact this.imp_right .inr
  | cfg => obtain ⟨_, _, rfl⟩ := h; exact .inl (by simp)
  | evRxEom =>
    obtain ⟨_, hr⟩ := h
    obtain ⟨_, rfl | ⟨_, _, _, rfl⟩⟩ := receive_cases hr <;> exact .inl rfl
  | nop => cases h; exact .inl rfl
  | txqReserve => obtain ⟨_, _, ⟨_, rfl⟩ | ⟨_, rfl⟩⟩ := h <;> exact .inl rfl
  | rxqPop => obtain ⟨_, ⟨_, rfl⟩ | ⟨_, rfl⟩⟩ := h <;> exact .inl rfl
  | stageWr | rdcsr => obtain ⟨_, _, _, rfl⟩ := h; exact .inl rfl
  | txqWr | rxqRd => obtain ⟨_, _, _, _, rfl⟩ := h; exact .inl rfl
  | txqCommit | txqAbandon => obtain ⟨_, _, rfl⟩ := h; exact .inl rfl
  | txqCount | rxqCount | clrcnt | evTxEmpty | evTxReady | evTxError => obtain ⟨_, rfl⟩ := h; exact .inl rfl

/-! ## Who touches RXQ (R76) -/

/-- What the steps other than a pop and a new creation do to RXQ: leave it alone, or store one entry in the slot at
the write cursor of a ring with room and publish it (42_ring.md R195). -/
inductive RxqKeptOrFilled (s t : State) : Prop where
  | kept (h : t.rxq = s.rxq)
  | filled (p : List Byte) (hroom : fullP s.build s.rxq = false) (hlen : p.length ≤ s.rxq.e.toNat)
      (h : t.rxq = { s.rxq with
        mem := s.rxq.mem.writeBytes (slotBase s.rxq s.rxq.w) p, w := nextSlot s.rxq s.rxq.w })

/-- No operation but `RXQ_POP` and `CFG` moves the ownership, and of the others only a reception acts on RXQ. -/
theorem acts_rxq {i : Instr} {s t : State} (hpop : i ≠ .rxqPop)
    (hcfg : ∀ ident n plen codec, i ≠ .cfg ident n plen codec)
    (h : Acts i s t) : t.rxqOwned = s.rxqOwned ∧ t.rxqOslot = s.rxqOslot ∧ RxqKeptOrFilled s t := by
  cases i with
  | rxqPop => exact absurd rfl hpop
  | cfg => exact absurd rfl (hcfg _ _ _ _)
  | evRxEom =>
    obtain ⟨_, hr⟩ := h
    obtain ⟨_, rfl | ⟨p, hroom, hlen, rfl⟩⟩ := receive_cases hr
    · exact ⟨rfl, rfl, .kept rfl⟩
    · exact ⟨rfl, rfl, .filled p hroom hlen rfl⟩
  | send =>
    obtain ⟨_, ⟨rfl, _⟩ | ⟨_, _, _, u, hu, rfl⟩⟩ := h
    · exact ⟨rfl, rfl, .kept rfl⟩
    · rw [startSend_frame hu]; exact ⟨rfl, rfl, .kept rfl⟩
  | tick =>
    obtain ⟨_, ht⟩ := h
    rw [countdown_frame ht]
    exact ⟨afterRetry_rxqOwned s, afterRetry_rxqOslot s, .kept (afterRetry_rxq s)⟩
  | nop => cases h; exact ⟨rfl, rfl, .kept rfl⟩
  | txqReserve => obtain ⟨_, _, ⟨_, rfl⟩ | ⟨_, rfl⟩⟩ := h <;> exact ⟨rfl, rfl, .kept rfl⟩
  | stageWr | rdcsr => obtain ⟨_, _, _, rfl⟩ := h; exact ⟨rfl, rfl, .kept rfl⟩
  | txqWr | rxqRd => obtain ⟨_, _, _, _, rfl⟩ := h; exact ⟨rfl, rfl, .kept rfl⟩
  | txqCommit | txqAbandon => obtain ⟨_, _, rfl⟩ := h; exact ⟨rfl, rfl, .kept rfl⟩
  | txqCount | rxqCount | clrcnt | evTxEmpty | evTxReady | evTxError =>
    obtain ⟨_, rfl⟩ := h; exact ⟨rfl, rfl, .kept rfl⟩

/-- The same of every operation, whichever way it ends. -/
theorem exec_rxq {i : Instr} {s t : State} (hpop : i ≠ .rxqPop)
    (hcfg : ∀ ident n plen codec, i ≠ .cfg ident n plen codec)
    (h : exec i s = .next t) : t.rxqOwned = s.rxqOwned ∧ t.rxqOslot = s.rxqOslot ∧ RxqKeptOrFilled s t := by
  rcases exec_acts_or_frame h with ha | ht
  · exact acts_rxq hpop hcfg ha
  · rw [ht]; exact ⟨rfl, rfl, .kept rfl⟩

/-- In a ring with room, the slot before the read cursor is not the one at the write cursor: one more entry leaves
that slot free (R76, 42_ring.md R185, R186). -/
theorem RingOk.slot_before_read_ne_write {b : Build} {q : Ring} (hq : RingOk b q) (hroom : fullP b q = false) :
    cursorDist q.n q.r 1 ≠ q.w.toNat := by
  have hfree := hq.room hroom q.r (by simp [readHistory])
  have hr := hq.rBound
  have h1 : (1 : BitVec 16).toNat < q.n.toNat := by show 1 < _; omega
  rw [cursorDist_eq hq.wBound hr] at hfree
  rw [cursorDist_eq hr h1, show (1 : BitVec 16).toNat = 1 from rfl]
  split_ifs at hfree ⊢ <;> omega

end Sys2Proof.Machine

namespace Sys2Proof.Safety

open Sys2Proof Sys2Proof.Machine

/-- Bytes stored inside one slot leave every other slot as it was (R66). -/
theorem slotBytes_writeBytes_of_ne {q : Ring} {slot x : Nat} {p : List Byte} (hne : slot ≠ x)
    (hlen : p.length ≤ q.e.toNat) :
    slotBytes { q with mem := q.mem.writeBytes (x * q.e.toNat) p } slot = slotBytes q slot := by
  refine List.map_congr_left fun j hj => ?_
  have hj : j < q.e.toNat := List.mem_range.1 hj
  have hout : ¬(x * q.e.toNat ≤ slot * q.e.toNat + j ∧ slot * q.e.toNat + j < x * q.e.toNat + p.length) := by
    rcases Nat.lt_or_gt_of_ne hne with hlt | hlt
    · have : (slot + 1) * q.e.toNat ≤ x * q.e.toNat := Nat.mul_le_mul_right _ hlt
      rw [Nat.add_one_mul] at this
      omega
    · have : (x + 1) * q.e.toNat ≤ slot * q.e.toNat := Nat.mul_le_mul_right _ hlt
      rw [Nat.add_one_mul] at this
      omega
  rw [Memory.read?_writeBytes, if_neg hout]

/-- A ring of the shape of a configured core, its views lagging, has the ring laws. -/
theorem RingShape.ringOk {b : Config.Build} {c : CfgRegs} {q : Ring} (h : RingShape b c q) (hb : b.Valid)
    (hc : c.configured = true) (hlag : ViewsLag q) : RingOk b q :=
  ⟨hb, h.rsyncLen, h.wsyncLen, h.wBound hc, h.rBound hc, hlag⟩

namespace Inv

variable {s : State}

/-- A configured core has a station to send for (40_scheduler.md R111). -/
theorem station_pos (hs : Inv s) (hc : s.cfg.configured = true) : 0 < s.cfg.n.toNat := by
  have := (hs.config.1 hc).station
  omega

/-- RXQ of a configured core has the ring laws. -/
theorem rxqOk (hs : Inv s) (hc : s.cfg.configured = true) : RingOk s.build s.rxq :=
  hs.ring.rxqShape.ringOk hs.build hc (hs.ring.rxqLag hc)

/-- A delivery with room for it never lands in the slot the host owns (R76). -/
theorem ownedSlot_ne_write (hs : Inv s) (ho : s.rxqOwned = true) (hroom : fullP s.build s.rxq = false) :
    s.rxqOslot.toNat ≠ s.rxq.w.toNat := by
  obtain ⟨hc, hslot⟩ := hs.ring.owned ho
  rw [hslot]
  exact (hs.rxqOk hc).slot_before_read_ne_write hroom

end Inv

end Sys2Proof.Safety

namespace Sys2Proof.Proofs.Memories

open Sys2Proof Sys2Proof.Machine Sys2Proof.Safety

/-- Settles O41: what a delivery fills is the slot at the write cursor, which in a ring with room is not the owned
one. -/
theorem ownedSlotIsProtected : Obligations.OwnedSlotIsProtected := by
  intro i s t hs ho hpop hcfg h
  obtain ⟨hown, hslot, hq⟩ := exec_rxq hpop hcfg h
  refine ⟨hown.trans ho, hslot, ?_⟩
  rw [hslot]
  cases hq with
  | kept hq => rw [hq]
  | filled p hroom hlen hq =>
    rw [hq]
    exact slotBytes_writeBytes_of_ne (hs.ownedSlot_ne_write ho hroom) hlen

/-- Settles O40: a step that writes `FRAME_BUF` starts in Idle, or goes from WaitGuard to Sending. -/
theorem frameBufferLifetime : Obligations.FrameBufferLifetime := by
  intro i s t hs h
  have hw : t.frameBuf = s.frameBuf ∨ s.sched.state = .idle ∨
      s.sched.state = .waitGuard ∧ t.sched.state = .sending := by
    rcases exec_acts_or_frame h with ha | ht
    · exact acts_frameBuf hs.station_pos ha
    · rw [ht]; exact .inl rfl
  rcases hw with hkept | hidle | ⟨hguard, hsend⟩
  · exact ⟨fun _ => hkept, fun _ _ => hkept⟩
  · exact ⟨fun hst => by simp [hidle] at hst, fun hst => by simp [hidle] at hst⟩
  · exact ⟨fun hst => by simp [hguard] at hst, fun _ hst => by simp [hsend] at hst⟩

end Sys2Proof.Proofs.Memories

/-! The ports' encoding (spec 30_encoding.md): a command word against its row of the opcode map, the fields the
decoder reads in the encoder's words, the words that name no operation, the gates in front of every operation, and the
statements settled from these. -/

namespace Sys2Proof

open Sys2Proof.Machine Sys2Proof.Safety

/-! ## Fields of the encoder's words (R81, R82) -/

@[simp] theorem lowField_formatB (op : Opcode) (off data : BitVec 8) : lowField (formatB op off data) = data :=
  field_eq_of_bits fun k hk => by rw [formatB_getLsbD, if_pos (by omega), Nat.zero_add]

@[simp] theorem offField_formatB (op : Opcode) (off data : BitVec 8) : offField (formatB op off data) = off :=
  field_eq_of_bits fun k hk => by
    rw [formatB_getLsbD, if_neg (by omega), if_pos (by omega), Nat.add_sub_cancel_left]

@[simp] theorem offField_formatO (op : Opcode) (off : BitVec 8) : offField (formatO op off) = off :=
  field_eq_of_bits fun k hk => by
    rw [formatO_getLsbD, if_neg (by omega), if_pos (by omega), Nat.add_sub_cancel_left]

@[simp] theorem lowField_formatA (op : Opcode) (addr : BitVec 8) : lowField (formatA op addr) = addr :=
  field_eq_of_bits fun k hk => by rw [formatA_getLsbD, if_pos (by omega), Nat.zero_add]

@[simp] theorem codecOfBit_codecBit (codec : LineCode) : codecOfBit ((codecBit codec).getLsbD 0) = codec := by
  cases codec <;> rfl

theorem codecOfBit_inj {a b : Bool} : codecOfBit a = codecOfBit b ↔ a = b := by
  cases a <;> cases b <;> decide

/-- The four operands of `CFG` in a word of format C. -/
theorem commandOf_formatC (i n plen : BitVec 8) (codec : LineCode) :
    commandOf .cfg (formatC .cfg (codecBit codec) plen n i) = .cfg i n plen codec := by
  have hi : lowField (formatC .cfg (codecBit codec) plen n i) = i :=
    field_eq_of_bits fun k hk => by rw [formatC_getLsbD, if_pos (by omega), Nat.zero_add]
  have hn : (formatC .cfg (codecBit codec) plen n i).extractLsb' 8 8 = n :=
    field_eq_of_bits fun k hk => by
      rw [formatC_getLsbD, if_neg (by omega), if_pos (by omega), Nat.add_sub_cancel_left]
  have hp : (formatC .cfg (codecBit codec) plen n i).extractLsb' 16 8 = plen :=
    field_eq_of_bits fun k hk => by
      rw [formatC_getLsbD, if_neg (by omega), if_neg (by omega), if_pos (by omega), Nat.add_sub_cancel_left]
  have hc : (formatC .cfg (codecBit codec) plen n i).getLsbD 24 = (codecBit codec).getLsbD 0 := by
    rw [formatC_getLsbD]; rfl
  simp only [commandOf, hi, hn, hp, hc, codecOfBit_codecBit]

/-! ## A word and its row of the opcode map (R81, R84) -/

/-- Every row's mask holds the opcode field, so a word has at most one row: the one its opcode field names. -/
theorem opField_of_row {w : Word} {op : Opcode} (h : w &&& opcodeMask op = opcodeMatch op) :
    opField w = opcodeCode op := by
  have hmask : opField (opcodeMask op) = BitVec.allOnes 5 := by cases op <;> rfl
  have hmatch : opField (opcodeMatch op) = opcodeCode op := by cases op <;> rfl
  calc opField w = opField w &&& opField (opcodeMask op) := by rw [hmask, BitVec.and_allOnes]
    _ = opField (w &&& opcodeMask op) := BitVec.extractLsb'_and.symm
    _ = opcodeCode op := by rw [h, hmatch]

/-- A word is legal exactly when it has a row (R84). -/
theorem legalCommand_iff {w : Word} :
    legalCommand w = true ↔ ∃ op, w &&& opcodeMask op = opcodeMatch op := by
  unfold legalCommand
  constructor
  · intro h
    split at h
    · cases h
    · exact ⟨_, beq_iff_eq.1 h⟩
  · rintro ⟨op, h⟩
    simp [opField_of_row h, h]

/-- The assigned opcodes, in the order of the opcode map. -/
def opcodes : List Opcode :=
  [.nop, .cfg, .stageWr, .send, .txqReserve, .txqWr, .txqCommit, .txqAbandon, .txqCount, .rxqPop, .rxqRd, .rxqCount,
    .rdcsr, .clrcnt]

theorem mem_opcodes (op : Opcode) : op ∈ opcodes := by cases op <;> decide

/-- A word with a row decodes to that row's command. -/
theorem decode_of_row {w : Word} {op : Opcode} (h : w &&& opcodeMask op = opcodeMatch op) :
    decode (.command w) = .ok (commandOf op w) := by
  simp [decode, decodeCommand, opField_of_row h, h]

/-- A word that is not legal is rejected. -/
theorem decode_of_illegal {w : Word} (h : legalCommand w = false) : ∃ r, decode (.command w) = .error r := by
  unfold legalCommand at h
  simp only [decode, decodeCommand]
  cases ho : opcodeOf (opField w) with
  | none => exact ⟨_, rfl⟩
  | some op =>
    rw [ho] at h
    exact ⟨.reservedBits (opField w), if_neg (by simpa using h)⟩

/-! ## Encoding a command and reading it back -/

/-- A command is encoded in a word with its opcode's row, and the fields of that word are its operands. -/
theorem encode_of_opcode {i : Instr} {op : Opcode} (h : opcodeOfInstr i = some op) :
    ∃ w, encode i = .command w ∧ w &&& opcodeMask op = opcodeMatch op ∧ commandOf op w = i := by
  cases i with
  | cfg i n plen codec =>
    cases h
    obtain ⟨_, ⟨⟩, hrow⟩ := Laws.Legal.cfg i n plen codec
    exact ⟨_, rfl, hrow, commandOf_formatC i n plen codec⟩
  | stageWr off data =>
    cases h
    obtain ⟨_, ⟨⟩, hrow⟩ := Laws.Legal.stageWr off data
    exact ⟨_, rfl, hrow, by simp [commandOf]⟩
  | txqWr off data =>
    cases h
    obtain ⟨_, ⟨⟩, hrow⟩ := Laws.Legal.txqWr off data
    exact ⟨_, rfl, hrow, by simp [commandOf]⟩
  | rxqRd off =>
    cases h
    obtain ⟨_, ⟨⟩, hrow⟩ := Laws.Legal.rxqRd off
    exact ⟨_, rfl, hrow, by simp [commandOf]⟩
  | rdcsr addr =>
    cases h
    obtain ⟨_, ⟨⟩, hrow⟩ := Laws.Legal.rdcsr addr
    exact ⟨_, rfl, hrow, by simp [commandOf]⟩
  | evRxEom | evTxEmpty | evTxReady | evTxError | tick => cases h
  | _ => cases h; exact ⟨_, rfl, by decide, rfl⟩

/-- What the encoder puts on the command port is a command. -/
theorem opcode_of_encode_command {i : Instr} {w : Word} (h : encode i = .command w) :
    ∃ op, opcodeOfInstr i = some op := by
  cases i with
  | evRxEom | evTxEmpty | evTxReady | evTxError | tick => cases h
  | _ => exact ⟨_, rfl⟩

theorem opcodeOfInstr_commandOf (op : Opcode) (w : Word) : opcodeOfInstr (commandOf op w) = some op := by
  cases op <;> rfl

/-- Equal fields have equal bits. -/
theorem getLsbD_eq_of_field_eq {w v : Word} {lo n k : Nat} (h : w.extractLsb' lo n = v.extractLsb' lo n)
    (hlo : lo ≤ k) (hk : k < lo + n) : w.getLsbD k = v.getLsbD k := by
  have hbit := congrArg (BitVec.getLsbD · (k - lo)) h
  simpa [show k - lo < n by omega, Nat.add_sub_cancel' hlo] using hbit

/-- `OFF` and `DATA` are the low half of a word of format B. -/
theorem getLsbD_eq_of_formatB_fields_eq {w v : Word} {k : Nat} (hoff : offField w = offField v)
    (hdata : lowField w = lowField v) (hk : k < 16) : w.getLsbD k = v.getLsbD k := by
  rcases Nat.lt_or_ge k 8 with hb | hb
  · exact getLsbD_eq_of_field_eq hdata (Nat.zero_le k) (by omega)
  · exact getLsbD_eq_of_field_eq hoff hb (by omega)

/-- The fields of a row's format cover every bit its mask leaves open. -/
theorem open_bit_eq_of_commandOf_eq {op : Opcode} {w v : Word} (h : commandOf op w = commandOf op v) {k : Nat}
    (hk : k < 32) (hopen : (opcodeMask op).getLsbD k = false) : w.getLsbD k = v.getLsbD k := by
  cases op with
  | cfg =>
    obtain ⟨hi, hn, hp, hc⟩ := Instr.cfg.inj h
    have hk25 : k < 25 := by revert k; decide
    rcases show k < 8 ∨ (8 ≤ k ∧ k < 16) ∨ (16 ≤ k ∧ k < 24) ∨ k = 24 by omega with hb | hb | hb | rfl
    · exact getLsbD_eq_of_field_eq hi (Nat.zero_le k) (by omega)
    · exact getLsbD_eq_of_field_eq hn hb.1 (by omega)
    · exact getLsbD_eq_of_field_eq hp hb.1 (by omega)
    · exact codecOfBit_inj.1 hc
  | stageWr =>
    obtain ⟨hoff, hdata⟩ := Instr.stageWr.inj h
    exact getLsbD_eq_of_formatB_fields_eq hoff hdata (by revert k; decide)
  | txqWr =>
    obtain ⟨hoff, hdata⟩ := Instr.txqWr.inj h
    exact getLsbD_eq_of_formatB_fields_eq hoff hdata (by revert k; decide)
  | rxqRd =>
    obtain ⟨hlo, hhi⟩ : 8 ≤ k ∧ k < 16 := by revert k; decide
    exact getLsbD_eq_of_field_eq (Instr.rxqRd.inj h) hlo (by omega)
  | rdcsr =>
    have hhi : k < 8 := by revert k; decide
    exact getLsbD_eq_of_field_eq (Instr.rdcsr.inj h) (Nat.zero_le k) (by omega)
  | _ =>
    have hall : (BitVec.allOnes 32).getLsbD k = false := hopen
    rw [BitVec.getLsbD_allOnes, decide_eq_true hk] at hall
    cases hall

/-- Two words of one row that stand for one command are the same word. -/
theorem eq_of_commandOf_eq {op : Opcode} {w v : Word} (hw : w &&& opcodeMask op = opcodeMatch op)
    (hv : v &&& opcodeMask op = opcodeMatch op) (h : commandOf op w = commandOf op v) : w = v := by
  refine BitVec.eq_of_getLsbD_eq fun k hk => ?_
  cases hmask : (opcodeMask op).getLsbD k with
  | false => exact open_bit_eq_of_commandOf_eq h hk hmask
  | true =>
    have hfixed := congrArg (BitVec.getLsbD · k) (hw.trans hv.symm)
    simpa [hmask] using hfixed

/-- A legal word is the encoding of the command it decodes to. -/
theorem encode_commandOf {op : Opcode} {w : Word} (h : w &&& opcodeMask op = opcodeMatch op) :
    encode (commandOf op w) = .command w := by
  obtain ⟨v, hv, hrow, hfields⟩ := encode_of_opcode (opcodeOfInstr_commandOf op w)
  rw [hv, eq_of_commandOf_eq hrow h hfields]

/-- A command is read back from its word. -/
theorem decode_encode_command {i : Instr} {op : Opcode} (h : opcodeOfInstr i = some op) :
    decode (encode i) = .ok i := by
  obtain ⟨w, hw, hrow, hfields⟩ := encode_of_opcode h
  rw [hw, decode_of_row hrow, hfields]

/-- Only a legal word is an encoding. -/
theorem legalCommand_of_encode {i : Instr} {w : Word} (h : encode i = .command w) : legalCommand w = true := by
  obtain ⟨op, hop⟩ := opcode_of_encode_command h
  obtain ⟨v, hv, hrow, _⟩ := encode_of_opcode hop
  cases hv.symm.trans h
  exact legalCommand_iff.2 ⟨op, hrow⟩

/-! ## Event words (R86, R87) -/

/-- An event word with a reserved code, or none, is rejected. -/
theorem decodeEvent_of_reserved {w : Word} (bits : List Bool)
    (h : (evField w).toNat < 2 ∨ 5 < (evField w).toNat) : ∃ r, decodeEvent w bits = .error r := by
  cases hd : decodeEvent w bits with
  | error r => exact ⟨r, rfl⟩
  | ok i =>
    rcases decodeEvent_eq_ok.1 hd with ⟨hc, _⟩ | ⟨hc, _⟩ | ⟨hc, _⟩ | ⟨hc, _⟩ <;> omega

/-- Decoding an event word reads its code and, where the code is `EV_RX_EOM`'s, `LEN` and the operand. -/
theorem decodeEvent_congr {w v : Word} {bits bits' : List Bool} (hcode : evField w = evField v)
    (hread : (evField w).toNat = 2 → lenField w = lenField v ∧ bits = bits') :
    decodeEvent w bits = decodeEvent v bits' := by
  by_cases hrx : (evField w).toNat = 2
  · obtain ⟨hlen, hbits⟩ := hread hrx
    simp only [decodeEvent, hcode, hlen, hbits]
  · unfold decodeEvent
    rw [← hcode]
    split
    · rfl
    · next h => exact absurd h hrx
    all_goals rfl

end Sys2Proof

namespace Sys2Proof.Machine

open Sys2Proof Sys2Proof.Safety

/-! ## The event step and an illegal command word -/

/-- The fault entry, register by register (60_exceptions.md R241). -/
theorem raiseFault_eq_faultedWith (c : Cause) (op : BitVec 5) (s : State) :
    raiseFault c op s = faultedWith (causeCode c) op s := rfl

/-- An input of the event port that decodes to no operation has no effect (R87). -/
theorem eventStep_of_rejected {c : CycleIn} {s : State} {r : Reject} (h : decode (eventInput c s) = .error r) :
    eventStep c s = .next s := by
  simp [eventStep, h]

/-- The event step depends on the event word through its decoding and the draws alone. -/
theorem eventStep_congr {c c' : CycleIn} {s : State} (hans : c.evAnswers = c'.evAnswers)
    (hdec : decode (eventInput c s) = decode (eventInput c' s)) (hdraws : eventDraws c = eventDraws c') :
    eventStep c s = eventStep c' s := by
  simp only [eventStep, hans, hdec, hdraws]

/-- The command step of a word that is not legal, outside the fault state (R84). -/
theorem commandStep_of_illegal {c : CycleIn} {s : State} {w : Word} (hw : legalCommand w = false)
    (hc : c.cmd = some w) (hf : s.fault.faulted = false) :
    commandStep c s = .next (faultedWith (causeCode .illegalCommand) (opField w) s) := by
  obtain ⟨r, hr⟩ := decode_of_illegal hw
  simp [commandStep, hc, hr, illegalCommand, hf, raiseFault_eq_faultedWith]

/-! ## The gate in front of every operation (R85, R88) -/

/-- Every command runs behind its opcode's prologue (R85). -/
theorem exec_eq_command {i : Instr} {op : Opcode} (h : opcodeOfInstr i = some op) :
    ∃ fa body, ∀ s, exec i s = command op fa body s := by
  cases i with
  | evRxEom | evTxEmpty | evTxReady | evTxError | tick => cases h
  | _ => cases h; exact ⟨_, _, fun _ => rfl⟩

/-- Every event and the tick run behind the gate (R88). -/
theorem exec_eq_gated {i : Instr} (h : opcodeOfInstr i = none) : ∃ body, ∀ s, exec i s = gated body s := by
  cases i with
  | evRxEom | evTxEmpty | evTxReady | evTxError | tick => exact ⟨_, fun _ => rfl⟩
  | _ => cases h

theorem needsConfig_eq_true_iff {op : Opcode} :
    needsConfig op = true ↔ op ≠ .nop ∧ op ≠ .cfg ∧ op ≠ .rdcsr ∧ op ≠ .clrcnt := by
  cases op <;> decide

end Sys2Proof.Machine

namespace Sys2Proof.Proofs.Encoding

open Sys2Proof Sys2Proof.Machine Sys2Proof.Safety

/-- Settles O1: a command is read back from the fields of its word, an event from its code. -/
theorem decodeEncodeAgree : Obligations.DecodeEncodeAgree := by
  intro i hwf
  cases i with
  | evRxEom len bits =>
    obtain ⟨w, hw, hcode, hlen⟩ := Laws.Legal.evRxEom len bits
    rw [hw]
    refine decodeEvent_eq_ok.2 (.inl ⟨by rw [hcode]; rfl, ?_, by rw [hlen]⟩)
    rw [hlen]
    exact hwf
  | evTxEmpty | evTxReady | evTxError | tick => rfl
  | _ => exact decode_encode_command rfl

/-- Settles O2: the rows are the opcodes' match and mask; the encoder and the decoder are each other's inverse on the
words that have a row. -/
theorem commandWordLegality : Obligations.CommandWordLegality := by
  intro w
  refine ⟨?_, fun hlegal => ?_, fun hillegal => ⟨fun j hj => ?_, fun c s hc hf => ?_⟩⟩
  · change _ ↔ ∃ row ∈ opcodes.map fun op => (opcodeMatch op, opcodeMask op), w &&& row.2 = row.1
    simp [legalCommand_iff, mem_opcodes]
  · obtain ⟨op, hrow⟩ := legalCommand_iff.1 hlegal
    refine ⟨commandOf op w, decode_of_row hrow, fun j => ⟨fun hj => ?_, fun hj => hj ▸ encode_commandOf hrow⟩⟩
    obtain ⟨op', hop'⟩ := opcode_of_encode_command hj
    have hdec := decode_encode_command hop'
    rw [hj, decode_of_row hrow] at hdec
    exact (Except.ok.inj hdec).symm
  · simp [legalCommand_of_encode hj] at hillegal
  · exact commandStep_of_illegal hillegal hc hf

/-- Settles O3: a reserved code is rejected, and neither the decoding nor the draws read a bit besides the code and,
for `EV_RX_EOM`, `LEN`. -/
theorem eventWordReading : Obligations.EventWordReading := by
  refine ⟨fun c s hres => ?_, fun c w s hcode hlen => ?_⟩
  · obtain ⟨r, hr⟩ := decodeEvent_of_reserved _ hres
    exact eventStep_of_rejected hr
  · have hlen' (h : (evField w).toNat = 2) : lenField w = lenField c.evWord := hlen (BitVec.eq_of_toNat_eq h)
    refine eventStep_congr rfl (decodeEvent_congr hcode fun h => ⟨hlen' h, ?_⟩) ?_
    · simp only [hlen' h]
    · simp only [eventDraws, ← hcode]
      split
      · next h => rw [hlen' h]
      · rfl

/-- Settles O4: the words are concrete. -/
theorem encodingExamples : Obligations.EncodingExamples := by
  unfold Obligations.EncodingExamples
  decide

/-- Settles O36: the prologue faults a command that needs the configuration before its own rule runs. -/
theorem unconfiguredCommandsFault : Obligations.UnconfiguredCommandsFault := by
  intro i op s hop hnop hcfg hrdcsr hclrcnt hf hc
  obtain ⟨fa, body, hexec⟩ := exec_eq_command hop
  have hneeds : needsConfig op = true := needsConfig_eq_true_iff.2 ⟨hnop, hcfg, hrdcsr, hclrcnt⟩
  rw [hexec]
  exact command_eq_next.2 (.inr (.inl ⟨hf, hneeds, hc, (raiseFault_eq_faultedWith .notConfigured _ s).symm⟩))

/-- Settles O37: the gate in front of events and ticks. -/
theorem eventsAndTicksGated : Obligations.EventsAndTicksGated := by
  intro i s hi hs
  obtain ⟨body, hexec⟩ := exec_eq_gated hi
  rw [hexec]
  exact gated_eq_next.2 (.inl ⟨hs, rfl⟩)

end Sys2Proof.Proofs.Encoding

/-! The scheduler (spec 40_scheduler.md): the operations that configure it, start it and count it down, the invariant
that every cycle keeps, the timing of a whole sequence, and the statements settled from these. -/

namespace Sys2Proof.Machine

open Sys2Proof Sys2Proof.Safety

/-! ## Counters -/

/-- What `Count(C)` adds to each counter (R14). -/
theorem Counters.get_bump_eq_add (c : Counters) (x y : Counter) :
    (c.bump x).get y = c.get y + if y = x then 1 else 0 := by
  rw [Counters.get_bump]
  split <;> simp

/-! ## CFG's checks (R111) -/

/-- A `CFG` whose check raises a cause enters the fault state with it, opcode 1 (R111, 60_exceptions.md R241). -/
theorem exec_cfg_rejected {i n plen : BitVec 8} {codec : LineCode} {s : State} {c : Cause}
    (hf : s.fault.faulted = false) (hc : cfgCheck i n plen codec s = some c) :
    exec (.cfg i n plen codec) s = .next (faultedWith (causeCode c) 1 s) := by
  change execCfg i n plen codec s = _
  unfold execCfg
  rw [command_ready hf (by simp [needsConfig]), hc]
  rfl

/-! ## The tick (R104) -/

/-- An accepted tick retries the return to receive mode and counts down. -/
theorem exec_tick_ready {s : State} (hr : Ready s) : exec .tick s = countdown (afterRetry s) := by
  change execTick s = _
  unfold execTick
  rw [gated_ready hr.2 hr.1, retryRx_eq_afterRetry]

theorem afterRetry_eq_self {s : State} (h : s.radio.rxRestore = false) : afterRetry s = s := by
  simp [afterRetry, h]

theorem countdown_stopped {s : State} (h : s.timer.armed = false) : countdown s = .next s :=
  countdown_eq_next.2 (.inl ⟨h, rfl⟩)

theorem countdown_running {s : State} (h : s.timer.armed = true) (hc : 2 ≤ s.timer.count.toNat) :
    countdown s = .next (setTimer ⟨true, s.timer.count - 1⟩ s) :=
  countdown_eq_next.2 (.inr (.inl ⟨h, fun h1 => by simp [h1] at hc, rfl⟩))

theorem countdown_expired {s : State} (h : s.timer.armed = true) (hc : s.timer.count.toNat = 1) :
    countdown s = dispatch (setTimer ⟨false, 0⟩ s) := by
  have h1 : s.timer.count = 1 := BitVec.eq_of_toNat_eq hc
  unfold countdown
  rw [h1, h]
  rfl

/-- The tick that ends a wait, with no return to receive mode pending. -/
theorem exec_tick_expired {s : State} (hr : Ready s) (ha : s.timer.armed = true) (hx : s.radio.rxRestore = false)
    (hc : s.timer.count.toNat = 1) : exec .tick s = dispatch (setTimer ⟨false, 0⟩ s) := by
  rw [exec_tick_ready hr, afterRetry_eq_self hx, countdown_expired ha hc]

/-- A count of ticks one lower. -/
theorem count_sub_one_toNat {c : BitVec 32} (h : 1 ≤ c.toNat) : (c - 1).toNat = c.toNat - 1 := by
  bv_omega

theorem ticks_succ (k : Nat) (s : State) : ticks (k + 1) s = andThen (exec .tick s) (ticks k) := rfl

/-- Runs of ticks one after another are one run. -/
theorem ticks_add (a b : Nat) (s : State) : ticks (a + b) s = andThen (ticks a s) (ticks b) := by
  induction a generalizing s with
  | zero => rw [Nat.zero_add]; rfl
  | succ a ih =>
    rw [Nat.succ_add, ticks_succ, ticks_succ]
    cases exec .tick s with
    | next t => exact ih t
    | fault r => rfl
    | refused r => rfl

/-- Ticks before the last one of a wait only count down (R104). -/
theorem ticks_running {k : Nat} : ∀ {s : State}, Ready s → s.timer.armed = true → s.radio.rxRestore = false →
    k < s.timer.count.toNat → ticks k s = .next (setTimer ⟨true, s.timer.count - BitVec.ofNat 32 k⟩ s) := by
  induction k with
  | zero =>
    intro s _ ha _ _
    rw [show (⟨true, s.timer.count - BitVec.ofNat 32 0⟩ : TimerRegs) = s.timer by simp [← ha]]
    rfl
  | succ k ih =>
    intro s hr ha hx hk
    have hcount : (s.timer.count - 1).toNat = s.timer.count.toNat - 1 := count_sub_one_toNat (by omega)
    have hrest := ih (s := setTimer ⟨true, s.timer.count - 1⟩ s) hr rfl hx (by simp only [setTimer_timer]; omega)
    rw [ticks_succ, exec_tick_ready hr, afterRetry_eq_self hx, countdown_running ha (by omega), andThen_next, hrest,
      setTimer_timer, show s.timer.count - 1 - BitVec.ofNat 32 k = s.timer.count - BitVec.ofNat 32 (k + 1) by bv_omega]
    rfl

/-- The last tick of a wait dispatches with the timer stopped (R104, R105). -/
theorem ticks_expired {s : State} (hr : Ready s) (ha : s.timer.armed = true) (hx : s.radio.rxRestore = false)
    (hpos : 1 ≤ s.timer.count.toNat) :
    ticks s.timer.count.toNat s = dispatch (setTimer ⟨false, 0⟩ s) := by
  obtain ⟨k, hk⟩ : ∃ k, s.timer.count.toNat = k + 1 := ⟨_, (Nat.sub_add_cancel hpos).symm⟩
  have hlast : (s.timer.count - BitVec.ofNat 32 k).toNat = 1 := by bv_omega
  have hone (u : State) : ticks 1 u = exec .tick u := by rw [ticks_succ]; cases exec .tick u <;> rfl
  have hexec := exec_tick_expired (s := setTimer ⟨true, s.timer.count - BitVec.ofNat 32 k⟩ s) hr rfl hx hlast
  rw [hk, ticks_add, ticks_running hr ha hx (by omega), andThen_next, hone, hexec]
  rfl

end Sys2Proof.Machine

/-! The common send path (spec 40_scheduler.md R105 to R110): what a repetition, `start_send`, `SEND` and an expiry
answer. -/

namespace Sys2Proof.Safety

open Sys2Proof Sys2Proof.Machine
open Sys2Proof.Config (Build)

/-! ## Reading -/

/-- What is read is what was written, and a draw where nothing was (10_state.md R58). -/
theorem reads_readBytes (m : Memory) (x n k : Nat) :
    Reads ((List.range n).map fun j => m.read? (x + j)) (m.readBytes x n k).1 := by
  refine List.forall₂_iff_get.2 ⟨by simp, fun j hj hj' u hu => ?_⟩
  have hread := Memory.readBytes_written m n x k j u (by simpa using hj) (by simpa using hu)
  obtain ⟨_, heq⟩ := List.getElem?_eq_some_iff.1 hread
  exact heq

/-! ## What legal configuration registers allow -/

namespace CfgLegal

variable {b : Build} {c : CfgRegs}

/-- The bytes that hold `FRAME_BITS` bits are `TXLEN` many (41_codec.md R143). -/
theorem frameBits_bytes (h : CfgLegal b c) : (c.frameBits.toNat + 7) / 8 = c.txlen.toNat := by
  rw [h.frameBits_toNat, h.txlen_toNat]; rfl

/-- The longest frame of the build has room for every configured one (10_state.md R27). -/
theorem txlen_le_frameBufBytes (h : CfgLegal b c) : c.txlen.toNat ≤ frameBufBytes b := by
  have hmax := h.plenMax
  rw [h.txlen_toNat]
  unfold frameBufBytes txlenOf framebitsOf
  cases c.codec <;> simp only [symbitsOf] <;> omega

theorem one_le_kI (h : CfgLegal b c) : 1 ≤ c.kI.toNat := by
  rw [h.kI_toNat]
  have hi := h.ident
  rcases h.station with hn | hn <;> rw [hn] at hi ⊢ <;> interval_cases c.i.toNat <;> decide

/-- A period is at least one tick long. -/
theorem one_le_period (h : CfgLegal b c) (hb : b.Valid) : 1 ≤ c.kI.toNat * c.delta.toNat :=
  Nat.mul_pos h.one_le_kI (Nat.lt_of_lt_of_le (by decide) (h.eight_le_delta hb))

/-- A period is no longer than the guard (40_scheduler.md R102). -/
theorem period_le_guard (h : CfgLegal b c) (hb : b.Valid) : c.kI.toNat * c.delta.toNat ≤ c.guard.toNat :=
  Nat.le_trans (Nat.mul_le_mul_right _ h.kI_le_kMax) (Nat.le_of_lt (h.kMax_mul_delta_lt_guard hb))

/-- A period fits the timer. -/
theorem period_toNat (h : CfgLegal b c) (hb : b.Valid) :
    (BitVec.ofNat 32 (c.kI.toNat * c.delta.toNat)).toNat = c.kI.toNat * c.delta.toNat := by
  have := h.period_le_guard hb
  have := c.guard.isLt
  rw [BitVec.toNat_ofNat, Nat.mod_eq_of_lt (by omega)]

end CfgLegal

theorem slotsOf_le {b : Build} {e : Nat} (h : 2 ≤ b.ringBytes.toNat / e) : slotsOf b e ≤ b.ringBytes.toNat / e := by
  unfold slotsOf
  split
  · exact Nat.le_refl _
  · exact Nat.log2_self_le (by omega)

/-- The slots of a ring fit its region (42_ring.md R180). -/
theorem slotsOf_mul_le {b : Build} {e : Nat} (h : 2 ≤ b.ringBytes.toNat / e) : slotsOf b e * e ≤ b.ringBytes.toNat :=
  Nat.le_trans (Nat.mul_le_mul_right e (slotsOf_le h)) (Nat.div_mul_le_self _ _)

theorem slotsOf_pos {b : Build} {e : Nat} (h : 2 ≤ b.ringBytes.toNat / e) : 0 < slotsOf b e := by
  unfold slotsOf
  split
  · omega
  · exact Nat.two_pow_pos _

/-- A slot count fits its register. -/
theorem ringCreate_n_toNat {b : Build} {e : BitVec 8} (h : 2 ≤ b.ringBytes.toNat / e.toNat) (q : Ring) :
    (ringCreate b e q).n.toNat = slotsOf b e.toNat := by
  have hle := (slotsOf_le h).trans (Nat.div_le_self _ _)
  have := b.ringBytes.isLt
  show (BitVec.ofNat 16 (slotsOf b e.toNat)).toNat = _
  rw [BitVec.toNat_ofNat, Nat.mod_eq_of_lt (by omega)]

/-- Every byte of a slot exists (20_memory.md R66). -/
theorem RingShape.slot_fits {b : Build} {c : CfgRegs} {q : Ring} (h : RingShape b c q) (hc : c.configured = true)
    (hl : CfgLegal b c) {x : BitVec 16} (hx : x.toNat < q.n.toNat) :
    slotBase q x + q.e.toNat ≤ b.ringBytes.toNat := by
  have hn := h.slots
  rw [if_pos hc] at hn
  calc slotBase q x + q.e.toNat = (x.toNat + 1) * q.e.toNat := (Nat.add_one_mul _ _).symm
    _ ≤ q.n.toNat * q.e.toNat := Nat.mul_le_mul_right _ hx
    _ = slotsOf b c.plen.toNat * c.plen.toNat := by rw [hn, h.entry]
    _ ≤ b.ringBytes.toNat := slotsOf_mul_le hl.slots

namespace Inv

variable {s : State}

theorem cfgLegal (hs : Inv s) (hr : Ready s) : CfgLegal s.build s.cfg := hs.config.1 hr.1

/-- Sending has a pending frame (40_scheduler.md R117 item 2). -/
theorem sched_eq_of_sending (hs : Inv s) (h : s.sched.state = .sending) :
    s.sched = ⟨.sending, s.sched.rep, true⟩ := by
  have hv := hs.sched.valid.2 h
  rw [← h, ← hv]

/-- Outside Sending no frame is pending (40_scheduler.md R117 item 2). -/
theorem valid_eq_false (hs : Inv s) (h : s.sched.state ≠ .sending) : s.sched.valid = false := by
  rw [← Bool.not_eq_true, hs.sched.valid]
  exact h

/-- TXQ of a configured core has the ring laws. -/
theorem txqOk (hs : Inv s) (hc : s.cfg.configured = true) : RingOk s.build s.txq :=
  hs.ring.txqShape.ringOk hs.build hc (hs.ring.txqLag hc)

end Inv

/-- A retried return to receive mode counts at most its own failure (40_scheduler.md R116). -/
theorem afterRetry_cnt_get (s : State) {c : Counter} (hc : c ≠ .rxModeFail) :
    (afterRetry s).cnt.get c = s.cnt.get c := by
  unfold afterRetry
  split
  · rw [← restoreRx_eq_restored, restoreRx_cnt]
    split
    · rfl
    · rw [Counters.get_bump, if_neg hc]
  · rfl

end Sys2Proof.Safety

namespace Sys2Proof.Machine

open Sys2Proof Sys2Proof.Safety

/-! ## Repetitions (R107) -/

/-- The state after `repetition()`, with the Radio's answer. -/
def repeatedState (s : State) : State := if s.answers.tx then sentState s else keyupFailedState s

/-- Under a legal configuration a repetition completes: the bytes of the frame exist. -/
theorem repetition_next {s : State} (hl : CfgLegal s.build s.cfg) : repetition s = .next (repeatedState s) := by
  have hfit : frameBytes s ≤ frameBufBytes s.build := hl.frameBits_bytes.trans_le hl.txlen_le_frameBufBytes
  refine repetition_eq_next.2 ?_
  unfold repeatedState
  cases hans : s.answers.tx
  · exact .inr ⟨rfl, rfl⟩
  · exact .inl ⟨rfl, hfit, rfl⟩

/-- In Sending with repetitions left, an expiry makes the next one (R105). -/
theorem dispatchSending_next {s : State} (hl : CfgLegal s.build s.cfg) (hrep : s.sched.rep.toNat < s.cfg.n.toNat) :
    dispatchSending s = .next (repeatedState s) :=
  dispatchSending_eq_next.2 (.inl ⟨hrep, repetition_next hl⟩)

/-- `FRAME_BUF` holds a frame of `FRAME_BITS` bits, packed from byte 0 on (41_codec.md R158). -/
structure HoldsFrame (f : List Bool) (s : State) : Prop where
  length : f.length = s.cfg.frameBits.toNat
  bytes : ∀ j < frameBytes s, s.frameBuf.read? j = (pack f)[j]?

/-- The frame held depends on the buffer and the configuration alone. -/
theorem HoldsFrame.congr {f : List Bool} {s t : State} (h : HoldsFrame f s) (hm : t.frameBuf = s.frameBuf)
    (hc : t.cfg = s.cfg) : HoldsFrame f t where
  length := by rw [hc]; exact h.length
  bytes := by simpa only [frameBytes, hm, hc] using h.bytes

/-- A frame held is read without a draw. -/
theorem HoldsFrame.heldFrame_eq {f : List Bool} {s : State} (h : HoldsFrame f s) : heldFrame s = (pack f, s.draws) :=
  Memory.readBytes_eq _ _ _ _ _ (by rw [pack_length, h.length]) fun j hj => by rw [Nat.zero_add]; exact h.bytes j hj

/-- A successful key-up, register by register (R107). -/
theorem sentState_eq (s : State) : sentState s = { s with
    sched := { s.sched with rep := s.sched.rep + 1 }, timer := ⟨true, BitVec.ofNat 32 (period s)⟩
    radio := ⟨true, false⟩, cnt := s.cnt.bump .txSent
    requests := s.requests ++
      [.setMode .tx true, .writeFrame ((bitString (heldFrame s).1).take s.cfg.frameBits.toNat)]
    draws := (heldFrame s).2 } := by
  simp only [sentState, request, count, setRequests, setDraws, setRadio, setSched, setCnt, arm, setTimer,
    List.append_assoc, List.cons_append, List.nil_append]

/-- It hands a frame held over to the transceiver, and takes no draw. -/
theorem HoldsFrame.sentState_eq {f : List Bool} {s : State} (h : HoldsFrame f s) :
    sentState s = { s with
      sched := { s.sched with rep := s.sched.rep + 1 }, timer := ⟨true, BitVec.ofNat 32 (period s)⟩
      radio := ⟨true, false⟩, cnt := s.cnt.bump .txSent
      requests := s.requests ++ [.setMode .tx true, .writeFrame f] } := by
  have hbits : (bitString (pack f)).take s.cfg.frameBits.toNat = f := by rw [← h.length]; exact take_bitString_pack f
  rw [Machine.sentState_eq, h.heldFrame_eq, hbits]

/-- What `WriteFrame` reads depends on the buffer, the configuration and the draws alone. -/
theorem heldFrame_congr {s t : State} (hm : t.frameBuf = s.frameBuf) (hc : t.cfg = s.cfg) (hd : t.draws = s.draws) :
    heldFrame t = heldFrame s := by
  simp only [heldFrame, frameBytes, hm, hc, hd]

/-! ## The start of a sequence (R110) -/

/-- The frame of a payload of `CFG_PLEN` bytes stands in `FRAME_BUF` once it is encoded (41_codec.md R158). -/
theorem holdsFrame_startedState {p : List Byte} {s : State} (hl : CfgLegal s.build s.cfg)
    (hp : p.length = s.cfg.plen.toNat) :
    HoldsFrame (frame s.build.preamble s.cfg.codec p) (startedState p s) := by
  have hlen : (frame s.build.preamble s.cfg.codec p).length = s.cfg.frameBits.toNat := by
    rw [frame_length, hp, hl.frameBits_toNat]
  refine ⟨hlen, fun j hj => ?_⟩
  have hj : j < (pack (frame s.build.preamble s.cfg.codec p)).length := by rw [pack_length, hlen]; exact hj
  simp only [startedState, setSched_frameBuf, setFrameBuf_frameBuf, Memory.read?_writeBytes]
  rw [if_pos ⟨Nat.zero_le j, by omega⟩, Nat.sub_zero]

/-- `start_send` completes, on any payload of `CFG_PLEN` bytes, with the first repetition (R110). -/
theorem startSend_next {p : List Byte} {s : State} (hl : CfgLegal s.build s.cfg) (hp : p.length = s.cfg.plen.toNat) :
    startSend p s = .next (repeatedState (startedState p s)) := by
  refine startSend_eq_next.2 ⟨?_, dispatchSending_next hl ?_⟩
  · rw [hp, ← hl.txlen_toNat]; exact hl.txlen_le_frameBufBytes
  · show 0 < s.cfg.n.toNat
    have := hl.station
    omega

/-- What `start_send` leaves behind, register by register (R110, R107, 41_codec.md R158). -/
theorem started_repeatedState {p : List Byte} {s : State} (hb : s.build.Valid) (hl : CfgLegal s.build s.cfg)
    (hp : p.length = s.cfg.plen.toNat) : Started p s (repeatedState (startedState p s)) := by
  have hcase : repeatedState (startedState p s) =
      if s.answers.tx then sentState (startedState p s) else keyupFailedState (startedState p s) := rfl
  have htimer : (repeatedState (startedState p s)).timer =
      ⟨true, BitVec.ofNat 32 (s.cfg.kI.toNat * s.cfg.delta.toNat)⟩ := by
    rw [hcase]; split <;> rfl
  have hbuf : (repeatedState (startedState p s)).frameBuf =
      s.frameBuf.writeBytes 0 (pack (frame s.build.preamble s.cfg.codec p)) := by
    rw [hcase]; split <;> rfl
  have hcnt : (repeatedState (startedState p s)).cnt =
      s.cnt.bump (if s.answers.tx then .txSent else .txKeyupFail) := by
    rw [hcase]; cases s.answers.tx <;> rfl
  refine ⟨?_, ?_, fun a => ?_, fun c => ?_⟩
  · rw [hcase]
    cases s.answers.tx
    · rfl
    · rw [if_pos rfl, (holdsFrame_startedState hl hp).sentState_eq]; rfl
  · rw [htimer]; exact hl.period_toNat hb
  · rw [hbuf, Memory.read?_writeBytes, pack_frame_length, hp, ← hl.txlen_toNat]
    simp
  · rw [hcnt]; exact Counters.get_bump_eq_add _ _ _

/-- `start_send` completes on any payload of `CFG_PLEN` bytes (R110). -/
theorem startSend_started {p : List Byte} {s : State} (hb : s.build.Valid) (hl : CfgLegal s.build s.cfg)
    (hp : p.length = s.cfg.plen.toNat) : ∃ t, startSend p s = .next t ∧ Started p s t :=
  ⟨_, startSend_next hl hp, started_repeatedState hb hl hp⟩

/-- `Started` does not read the scheduler, the timer and the draws before it: all three are written anew. -/
theorem started_of_set {p : List Byte} {s t : State} {k : Nat} {c : SchedRegs} {v : TimerRegs}
    (h : Started p (setDraws k (setSched c (setTimer v s))) t) : Started p s t :=
  ⟨h.registers, h.wait, h.buffer, h.counters⟩

/-! ## SEND (R112) -/

/-- `SEND` from Idle starts a sequence on what the staging buffer reads. -/
theorem exec_send_idle {s : State} (hs : Inv s) (hr : Ready s) (hst : s.sched.state = .idle) :
    ∃ p t, Reads (stagedBytes s) p ∧ Started p s t ∧ exec .send s = .next (answered false 0 t) := by
  have hl := hs.cfgLegal hr
  have hv := hs.valid_eq_false (by simp [hst])
  have hreads : Reads (stagedBytes s) (s.stage.readBytes 0 s.cfg.plen.toNat s.draws).1 := by
    simpa [stagedBytes] using reads_readBytes s.stage 0 s.cfg.plen.toNat s.draws
  have hlen : (s.stage.readBytes 0 s.cfg.plen.toNat s.draws).1.length = s.cfg.plen.toNat :=
    Memory.readBytes_length _ _ _ _
  have hread : stagePayload s = .next ((s.stage.readBytes 0 s.cfg.plen.toNat s.draws).1,
      setDraws (s.stage.readBytes 0 s.cfg.plen.toNat s.draws).2 s) :=
    memRead_eq_next.2 ⟨by rw [Nat.zero_add]; exact hl.plenMax, rfl⟩
  generalize s.stage.readBytes 0 s.cfg.plen.toNat s.draws = r at hreads hlen hread
  obtain ⟨t, hsend, hstarted⟩ := startSend_started (s := setDraws r.2 s) hs.build hl hlen
  refine ⟨r.1, t, hreads, started_of_set hstarted, ?_⟩
  change execSend s = _
  unfold execSend
  rw [command_ready hr.2 fun _ => hr.1, if_neg (by simp [hst, hv]), hread, andThen_next, hsend]
  rfl

/-! ## Expiries (R104 to R109) -/

/-- The expiry of an accepted tick, after the retry. -/
theorem exec_tick_dispatch {s : State} (hr : Ready s) (ha : s.timer.armed = true) (hc : s.timer.count.toNat = 1) :
    exec .tick s = dispatch (setTimer ⟨false, 0⟩ (afterRetry s)) := by
  rw [exec_tick_ready hr, countdown_expired (by rwa [afterRetry_timer]) (by rwa [afterRetry_timer])]

theorem dispatch_sending {s : State} (h : s.sched.state = .sending) : dispatch s = dispatchSending s := by
  unfold dispatch; rw [h]

theorem dispatch_waitGuard {s : State} (h : s.sched.state = .waitGuard) :
    dispatch s = idleEntry (setSched ⟨.idle, 0, s.sched.valid⟩ s) := by
  unfold dispatch; rw [h]; rfl

/-- After the last repetition an expiry arms the guard (R106). -/
theorem dispatchSending_last {s : State} (h : s.cfg.n.toNat ≤ s.sched.rep.toNat) :
    dispatchSending s = .next (endCycle s) := dispatchSending_eq_next.2 (.inr ⟨h, rfl⟩)

/-- Idle entry with nothing queued counts an empty pull (R109). -/
theorem idleEntry_empty {s : State} (h : countC s.build s.txq = 0) : idleEntry s = .next (count .txqEmptyPull s) :=
  idleEntry_eq_next.2 (.inl ⟨h, rfl⟩)

/-- Idle entry with an entry queued pulls the oldest and starts to send it (R109, R110). -/
theorem idleEntry_pull {s : State} (hb : s.build.Valid) (hl : CfgLegal s.build s.cfg) (hq : s.txq.e = s.cfg.plen)
    (hfit : slotBase s.txq s.txq.r + s.txq.e.toNat ≤ s.build.ringBytes.toNat) (h : countC s.build s.txq ≠ 0) :
    ∃ p t, Reads (slotBytes s.txq s.txq.r.toNat) p ∧ idleEntry s = .next t ∧ Started p (txqPop s) t := by
  have hlen : (pulledEntry s).1.length = s.cfg.plen.toNat := by rw [← hq]; exact Memory.readBytes_length _ _ _ _
  obtain ⟨t, hsend, hstarted⟩ := startSend_started (s := setDraws (pulledEntry s).2 (txqPop s)) hb hl hlen
  exact ⟨_, t, reads_readBytes _ _ _ _, idleEntry_eq_next.2 (.inr ⟨h, hfit, hsend⟩), started_of_set hstarted⟩

/-- The slot after a slot (42_ring.md R181). -/
theorem nextSlot_toNat (q : Ring) (x : BitVec 16) (hx : x.toNat < q.n.toNat) :
    (nextSlot q x).toNat = (x.toNat + 1) % q.n.toNat := by
  rw [nextSlot_eq hx]
  split
  · next h => rw [h, Nat.mod_self]
  · rw [Nat.mod_eq_of_lt (by omega)]

end Sys2Proof.Machine

/-! The timing of a whole sequence (spec 40_scheduler.md R118): repetitions one period apart, the guard after the last
one, and the return to Idle. -/

namespace Sys2Proof.Safety

open Sys2Proof Sys2Proof.Machine

theorem Reads.length_eq {cells : List (Option Byte)} {p : List Byte} (h : Reads cells p) : p.length = cells.length :=
  (List.Forall₂.length_eq h).symm

theorem repetitions_succ (k : Nat) (f : List Bool) :
    repetitions (k + 1) f = repetitions k f ++ [.setMode .tx true, .writeFrame f] := by
  simp [repetitions, List.replicate_succ']

/-- A started sequence holds its frame (41_codec.md R158). -/
theorem Started.holdsFrame {p : List Byte} {s t : State} (h : Started p s t) (hl : CfgLegal s.build s.cfg)
    (hp : p.length = s.cfg.plen.toNat) : HoldsFrame (frame s.build.preamble s.cfg.codec p) t := by
  have hcfg : t.cfg = s.cfg := by rw [h.registers]
  refine ⟨by rw [frame_length, hp, hcfg, hl.frameBits_toNat], fun j hj => ?_⟩
  rw [frameBytes, hcfg, hl.frameBits_bytes] at hj
  rw [h.buffer, if_pos hj]

/-- In the sequence that `s` started on the frame `f`, the `j`-th repetition has just been made, and every key-up
so far was granted (40_scheduler.md R118). -/
structure Repeating (s : State) (f : List Bool) (j : Nat) (t : State) : Prop where
  registers : t = { s with
    frameBuf := t.frameBuf, sched := ⟨.sending, BitVec.ofNat 4 j, true⟩,
    timer := ⟨true, BitVec.ofNat 32 (period s)⟩, radio := ⟨true, false⟩, cnt := t.cnt, rsp := t.rsp,
    requests := repetitions j f, draws := t.draws }
  held : HoldsFrame f t
  pulls : t.cnt.txqEmptyPull = s.cnt.txqEmptyPull

/-- A start whose key-up was granted has made the first repetition. -/
theorem Started.repeating {p : List Byte} {s t : State} (h : Started p s t) (hl : CfgLegal s.build s.cfg)
    (hp : p.length = s.cfg.plen.toNat) (hans : s.answers.tx = true) (hreq : s.requests = []) :
    Repeating s (frame s.build.preamble s.cfg.codec p) 1 (answered false 0 t) where
  registers := by
    have htimer : t.timer = ⟨true, BitVec.ofNat 32 (period s)⟩ := by
      rw [h.registers, period, ← h.wait, BitVec.ofNat_toNat, BitVec.setWidth_eq]
    have hreg := h.registers
    rw [hans, hreq] at hreg
    rw [← htimer, answered, hreg]
    rfl
  held := (h.holdsFrame hl hp).congr rfl rfl
  pulls := by
    have := h.counters .txqEmptyPull
    rw [hans] at this
    exact this.trans (by simp [Counters.get])

namespace Repeating

variable {s t : State} {f : List Bool} {j : Nat}

theorem ready (h : Repeating s f j t) (hr : Ready s) : Ready t := by rw [h.registers]; exact hr

/-- The timer has a whole period to go. -/
theorem count_eq (h : Repeating s f j t) (hs : Inv s) (hr : Ready s) :
    t.timer.count.toNat = period s := by
  rw [h.registers]; exact (hs.cfgLegal hr).period_toNat hs.build

/-- Before the period is over, nothing has changed but the timer. -/
theorem running (h : Repeating s f j t) (hs : Inv s) (hr : Ready s) {k : Nat}
    (hk : k < period s) : ticks k t = .next (setTimer ⟨true, t.timer.count - BitVec.ofNat 32 k⟩ t) :=
  ticks_running (h.ready hr) (by rw [h.registers]) (by rw [h.registers]) (by rwa [h.count_eq hs hr])

/-- When it is over, the Sending case of `dispatch()` runs. -/
theorem expired (h : Repeating s f j t) (hs : Inv s) (hr : Ready s) :
    ticks (period s) t = dispatchSending (setTimer ⟨false, 0⟩ t) := by
  have hpos := (hs.cfgLegal hr).one_le_period hs.build
  have hexp := ticks_expired (h.ready hr) (by rw [h.registers]) (by rw [h.registers])
    (by rw [h.count_eq hs hr]; exact hpos)
  rwa [h.count_eq hs hr, dispatch_sending (by rw [setTimer_sched, h.registers])] at hexp

/-- One period later the next repetition has just been made (40_scheduler.md R107). -/
theorem again (h : Repeating s f j t) (hs : Inv s) (hr : Ready s)
    (hans : s.answers.tx = true) (hj : j < s.cfg.n.toNat) :
    ∃ t', ticks (period s) t = .next t' ∧ Repeating s f (j + 1) t' := by
  have hcfg : t.cfg = s.cfg := by rw [h.registers]
  have hl := hs.cfgLegal hr
  have hn := hl.station
  have hheld : HoldsFrame f (setTimer ⟨false, 0⟩ t) := h.held.congr rfl rfl
  have hsent : ticks (period s) t = .next (sentState (setTimer ⟨false, 0⟩ t)) := by
    have hrep : (BitVec.ofNat 4 j).toNat < s.cfg.n.toNat := by rw [BitVec.toNat_ofNat]; omega
    rw [h.expired hs hr, dispatchSending_next, repeatedState, if_pos]
    · rw [setTimer_answers, h.registers]; exact hans
    · rw [setTimer_build, setTimer_cfg, h.registers]; exact hl
    · rw [setTimer_sched, setTimer_cfg, h.registers]; exact hrep
  refine ⟨_, hsent, ?_, ?_, ?_⟩
  · have hsucc : BitVec.ofNat 4 j + 1 = BitVec.ofNat 4 (j + 1) := by rw [BitVec.ofNat_add]; rfl
    have hperiod : period (setTimer ⟨false, 0⟩ t) = period s := by simp only [period, setTimer_cfg, hcfg]
    rw [hheld.sentState_eq, hperiod, repetitions_succ, ← hsucc]
    rw [h.registers]
    rfl
  · exact h.held.congr (by rw [hheld.sentState_eq]; rfl) (by rw [hheld.sentState_eq]; rfl)
  · rw [← h.pulls, hheld.sentState_eq]; rfl

/-- Repetition `j + 1` is made `j` periods after the start. -/
theorem after_periods (h : Repeating s f 1 t) (hs : Inv s) (hr : Ready s)
    (hans : s.answers.tx = true) {j : Nat} (hj : j < s.cfg.n.toNat) :
    ∃ t', ticks (j * period s) t = .next t' ∧ Repeating s f (j + 1) t' := by
  induction j with
  | zero => exact ⟨t, by rw [Nat.zero_mul]; rfl, h⟩
  | succ j ih =>
    obtain ⟨u, hu, hrep⟩ := ih (by omega)
    obtain ⟨t', ht', hrep'⟩ := hrep.again hs hr hans (by omega)
    exact ⟨t', by rw [Nat.add_one_mul, ticks_add, hu, andThen_next, ht'], hrep'⟩

/-- One period after the last repetition the guard is armed (40_scheduler.md R106). -/
theorem guarded (h : Repeating s f s.cfg.n.toNat t) (hs : Inv s) (hr : Ready s) :
    ticks (period s) t = .next (endCycle (setTimer ⟨false, 0⟩ t)) := by
  have hrep : s.cfg.n.toNat ≤ (BitVec.ofNat 4 s.cfg.n.toNat).toNat := by
    have := (hs.cfgLegal hr).station
    rw [BitVec.toNat_ofNat]; omega
  rw [h.expired hs hr, dispatchSending_last]
  rw [setTimer_cfg, setTimer_sched, h.registers]
  exact hrep

/-- The state in which the guard begins, after the last repetition of a sequence. -/
abbrev guardState (t : State) : State := endCycle (setTimer ⟨false, 0⟩ t)

theorem guardState_ready (h : Repeating s f j t) (hr : Ready s) : Ready (guardState t) := h.ready hr

theorem guardState_rxRestore (h : Repeating s f j t) : (guardState t).radio.rxRestore = false := by
  show t.radio.rxRestore = false
  rw [h.registers]

theorem guardState_requests (h : Repeating s f j t) : (guardState t).requests = repetitions j f := by
  show t.requests = _
  rw [h.registers]

/-- The whole guard is to go. -/
theorem guardState_count (h : Repeating s f j t) : (guardState t).timer.count = s.cfg.guard := by
  show BitVec.ofNat 32 t.cfg.guard.toNat = _
  rw [h.registers, BitVec.ofNat_toNat, BitVec.setWidth_eq]

/-- Before the guard is over, nothing has changed but the timer. -/
theorem waiting (h : Repeating s f j t) (hr : Ready s) {k : Nat} (hk : k < s.cfg.guard.toNat) :
    ticks k (guardState t) = .next (setTimer ⟨true, s.cfg.guard - BitVec.ofNat 32 k⟩ (guardState t)) := by
  rw [← h.guardState_count] at hk ⊢
  exact ticks_running (h.guardState_ready hr) rfl h.guardState_rxRestore hk

/-- When it is over with nothing queued, the core is Idle and an empty pull is counted (40_scheduler.md R108, R109). -/
theorem finished (h : Repeating s f j t) (hr : Ready s) (hg : 1 ≤ s.cfg.guard.toNat)
    (hq : countC s.build s.txq = 0) : ticks s.cfg.guard.toNat (guardState t) =
      .next (count .txqEmptyPull (setSched ⟨.idle, 0, false⟩ (setTimer ⟨false, 0⟩ (guardState t)))) := by
  rw [← h.guardState_count] at hg ⊢
  rw [ticks_expired (h.guardState_ready hr) rfl h.guardState_rxRestore hg, dispatch_waitGuard rfl, idleEntry_empty]
  · rfl
  · show countC t.build t.txq = 0
    rw [h.registers]
    exact hq

/-- During the repetitions: as many as whole periods have passed, and the one at the start (40_scheduler.md R118). -/
theorem sending_at (h : Repeating s f 1 t) (hs : Inv s) (hr : Ready s)
    (hans : s.answers.tx = true) {k : Nat} (hk : k < s.cfg.n.toNat * period s) :
    ∃ t', ticks k t = .next t' ∧ t'.requests = repetitions (1 + min (k / period s) (s.cfg.n.toNat - 1)) f ∧
      t'.sched.state = .sending := by
  have hpos : 0 < period s := (hs.cfgLegal hr).one_le_period hs.build
  have hj : k / period s < s.cfg.n.toNat := (Nat.div_lt_iff_lt_mul hpos).2 hk
  obtain ⟨u, hu, hrep⟩ := h.after_periods hs hr hans hj
  have hrun := hrep.running hs hr (Nat.mod_lt k hpos)
  refine ⟨setTimer ⟨true, u.timer.count - BitVec.ofNat 32 (k % period s)⟩ u, ?_, ?_, ?_⟩
  · conv_lhs => rw [← Nat.div_add_mod' k (period s)]
    rw [ticks_add, hu, andThen_next, hrun]
  · rw [setTimer_requests, hrep.registers, Nat.min_eq_left (by omega), Nat.add_comm 1]
  · rw [setTimer_sched, hrep.registers]

/-- The guard begins one period after the last repetition (40_scheduler.md R118). -/
theorem guard_begins (h : Repeating s f 1 t) (hs : Inv s) (hr : Ready s)
    (hans : s.answers.tx = true) :
    ∃ v, Repeating s f s.cfg.n.toNat v ∧ ticks (s.cfg.n.toNat * period s) t = .next (guardState v) := by
  obtain ⟨m, hm⟩ : ∃ m, s.cfg.n.toNat = m + 1 := ⟨s.cfg.n.toNat - 1, by have := hs.station_pos hr.1; omega⟩
  obtain ⟨v, hv, hlast⟩ := h.after_periods hs hr hans (j := m) (by omega)
  rw [← hm] at hlast
  exact ⟨v, hlast, by rw [hm, Nat.add_one_mul, ticks_add, hv, andThen_next, hlast.guarded hs hr]⟩

end Repeating

end Sys2Proof.Safety

/-! What a ring holds, as it is published to and taken from (spec 42_ring.md R184), and the invariant of Safety.lean
under each change of state that an operation makes. -/

namespace Sys2Proof.Machine

open Sys2Proof Sys2Proof.Safety
open Sys2Proof.Config (Build)

namespace RingOk

variable {b : Build} {q : Ring}

/-- The ring laws read no byte of the region. -/
theorem withMem (h : RingOk b q) (m : Memory) : RingOk b { q with mem := m } :=
  ⟨h.build, h.rsyncLen, h.wsyncLen, h.wBound, h.rBound, h.lag.rsyncBound, h.lag.wsyncBound, h.lag.rsyncLag,
    h.lag.wsyncLag⟩

/-- A ring whose consumer sees an entry holds one (42_ring.md R202). -/
theorem ringCount_pos (h : RingOk b q) (hc : countC b q ≠ 0) : 0 < ringCount q :=
  Nat.lt_of_lt_of_le (Nat.pos_of_ne_zero hc) h.counts.1

theorem ringCount_lt (h : RingOk b q) : ringCount q < q.n.toNat := by
  have := h.wBound
  have := h.rBound
  unfold ringCount
  rw [cursorDist_eq h.wBound h.rBound]
  split <;> omega

/-- Taking an entry lowers the count by one (42_ring.md R192, R194). -/
theorem ringCount_take (h : RingOk b q) (hc : countC b q ≠ 0) :
    ringCount q = ringCount { q with r := nextSlot q q.r } + 1 := by
  have hpos := h.ringCount_pos hc
  have hw := h.wBound
  have hr := h.rBound
  have hn := nextSlot_eq hr
  unfold ringCount at hpos ⊢
  rw [cursorDist_eq hw hr] at hpos
  rw [cursorDist_eq hw hr, cursorDist_eq hw (nextSlot_lt hr), hn]
  split_ifs at hpos ⊢ <;> omega

/-- Publishing an entry in a ring with room raises the count by one (42_ring.md R189, R195). -/
theorem ringCount_publish (h : RingOk b q) (hf : fullP b q = false) :
    ringCount { q with w := nextSlot q q.w } = ringCount q + 1 := by
  have hroom := h.room hf q.r (by simp [readHistory])
  have hw := h.wBound
  have hr := h.rBound
  have hn := nextSlot_eq hw
  unfold ringCount
  rw [cursorDist_eq hw hr] at hroom
  rw [cursorDist_eq hw hr, cursorDist_eq (nextSlot_lt hw) hr, hn]
  split_ifs at hroom ⊢ <;> omega

/-- The slot behind the newest entry is the one at the write cursor. -/
theorem slot_ringCount (h : RingOk b q) : (q.r.toNat + ringCount q) % q.n.toNat = q.w.toNat := by
  have hw := h.wBound
  have hr := h.rBound
  unfold ringCount
  rw [cursorDist_eq hw hr]
  split
  · rw [Nat.add_sub_cancel' (by omega), Nat.mod_eq_of_lt hw]
  · rw [Nat.add_sub_cancel' (by omega), Nat.add_mod_right, Nat.mod_eq_of_lt hw]

/-- No committed entry stands in the slot at the write cursor (42_ring.md R184). -/
theorem slot_ne_write (h : RingOk b q) {j : Nat} (hj : j < ringCount q) :
    (q.r.toNat + j) % q.n.toNat ≠ q.w.toNat := by
  have hr := h.rBound
  have hlt := h.ringCount_lt
  rw [← h.slot_ringCount]
  intro heq
  have hmod : j % q.n.toNat = ringCount q % q.n.toNat := Nat.ModEq.add_left_cancel' q.r.toNat heq
  rw [Nat.mod_eq_of_lt (by omega), Nat.mod_eq_of_lt hlt] at hmod
  omega

/-- A pop takes the oldest entry (42_ring.md R184). -/
theorem entries_take (h : RingOk b q) (hc : countC b q ≠ 0) :
    entries q = slotBytes q q.r.toNat :: entries { q with r := nextSlot q q.r } := by
  have hr := h.rBound
  unfold entries
  rw [h.ringCount_take hc, List.range_succ_eq_map, List.map_cons, List.map_map, Nat.add_zero, Nat.mod_eq_of_lt hr]
  refine congrArg _ (List.map_congr_left fun j _ => ?_)
  have hslot : (q.r.toNat + (j + 1)) % q.n.toNat = ((nextSlot q q.r).toNat + j) % q.n.toNat := by
    rw [nextSlot_toNat q q.r hr, Nat.mod_add_mod, Nat.add_assoc, Nat.add_comm 1 j]
  exact congrArg (slotBytes q) hslot

/-- A publication adds the slot at the write cursor as the newest entry (42_ring.md R184). -/
theorem entries_publish (h : RingOk b q) (hf : fullP b q = false) :
    entries { q with w := nextSlot q q.w } = entries q ++ [slotBytes q q.w.toNat] := by
  have hlast := h.slot_ringCount
  unfold entries
  rw [h.ringCount_publish hf, List.range_succ, List.map_append, List.map_singleton]
  change _ ++ [slotBytes q ((q.r.toNat + ringCount q) % q.n.toNat)] = _
  rw [hlast]
  rfl

/-- Bytes stored in the slot at the write cursor change no committed entry. -/
theorem entries_writeBytes (h : RingOk b q) {p : List Byte} (hlen : p.length ≤ q.e.toNat) :
    entries { q with mem := q.mem.writeBytes (slotBase q q.w) p } = entries q :=
  List.map_congr_left fun _ hj => slotBytes_writeBytes_of_ne (h.slot_ne_write (List.mem_range.1 hj)) hlen

/-- A ring with a reserved slot keeps it when an entry is taken: the producer side sees no more entries than before
(42_ring.md R198 item 4). -/
theorem fullP_take (h : RingOk b q) (hc : countC b q ≠ 0) (hf : fullP b q = false) :
    fullP b { q with r := nextSlot q q.r } = false := by
  cases hm : b.cdcMode with
  | gray =>
    unfold fullP readView at hf ⊢
    rw [hm] at hf ⊢
    exact hf
  | sync =>
    have hview : countP b { q with r := nextSlot q q.r } = ringCount { q with r := nextSlot q q.r } := by
      unfold countP ringCount readView
      rw [hm]
    have hlt := h.ringCount_lt
    have hcount := h.ringCount_take hc
    have hiff := (h.take hc).fullP_iff
    rw [hview] at hiff
    by_contra hfull
    have := hiff.1 (by simpa using hfull)
    change _ = q.n.toNat - 1 at this
    omega

end RingOk

end Sys2Proof.Machine

namespace Sys2Proof.Safety

open Sys2Proof Sys2Proof.Machine
open Sys2Proof.Config (Build)

/-- A slot whose bytes were just stored holds exactly those. -/
theorem slotBytes_writeBytes_self {q : Ring} {x : Nat} {p : List Byte} (hlen : p.length = q.e.toNat) :
    slotBytes { q with mem := q.mem.writeBytes (x * q.e.toNat) p } x = p.map some := by
  refine List.ext_getElem (by simp [hlen]) fun j hj _ => ?_
  have hj : j < p.length := by simpa [hlen] using hj
  simp only [slotBytes, List.getElem_map, List.getElem_range, Memory.read?_writeBytes]
  rw [if_pos ⟨Nat.le_add_right _ _, by omega⟩, Nat.add_sub_cancel_left, List.getElem?_eq_getElem hj]

/-- A delivery adds its payload as the newest entry (42_ring.md R195). -/
theorem entries_deliver {b : Build} {q : Ring} {p : List Byte} (h : RingOk b q) (hf : fullP b q = false)
    (hlen : p.length = q.e.toNat) :
    entries { q with mem := q.mem.writeBytes (slotBase q q.w) p, w := nextSlot q q.w } =
      entries q ++ [p.map some] := by
  have hpub := (h.withMem (q.mem.writeBytes (slotBase q q.w) p)).entries_publish hf
  rwa [h.entries_writeBytes hlen.le, slotBase, slotBytes_writeBytes_self hlen] at hpub

/-- A ring with the ring laws and the geometry of a configured ring has its shape. -/
theorem RingShape.of_ringOk {b : Build} {c : CfgRegs} {q q' : Ring} (h : RingShape b c q) (hc : c.configured = true)
    (hok : RingOk b q') (he : q'.e = q.e) (hn : q'.n = q.n) : RingShape b c q' where
  rsyncLen := hok.rsyncLen
  wsyncLen := hok.wsyncLen
  entry := he.trans h.entry
  slots := by rw [hn]; exact h.slots
  wBound _ := hok.wBound
  rBound _ := hok.rBound
  wZero h0 := by simp [hc] at h0
  rZero h0 := by simp [hc] at h0

/-! ## The scheduler's part of the invariant in each of its states (40_scheduler.md R117) -/

section
variable {s : State}

/-- Sending, with `rep` repetitions done and `k` ticks to go. -/
theorem schedInv_sending (hr : Ready s) {rep : BitVec 4} {k : BitVec 32} (hrep : rep.toNat ≤ s.cfg.n.toNat)
    (hpos : 1 ≤ k.toNat) (hmax : k.toNat ≤ s.cfg.guard.toNat) :
    SchedInv (setSched ⟨.sending, rep, true⟩ (setTimer ⟨true, k⟩ s)) where
  valid := by simp
  armed _ := by simp
  stopped h := absurd (hr.2.symm.trans h) (by simp)
  repMax := hrep
  repIdle := nofun
  repGuard := nofun
  countMax := hmax
  countZero := nofun
  countPos _ := hpos
  unconfigured h := absurd (hr.1.symm.trans h) (by simp)

/-- WaitGuard, with `k` ticks to go. -/
theorem schedInv_waitGuard (hr : Ready s) {rep : BitVec 4} {k : BitVec 32} (hrep : rep.toNat = s.cfg.n.toNat)
    (hpos : 1 ≤ k.toNat) (hmax : k.toNat ≤ s.cfg.guard.toNat) :
    SchedInv (setSched ⟨.waitGuard, rep, false⟩ (setTimer ⟨true, k⟩ s)) where
  valid := by simp
  armed _ := by simp
  stopped h := absurd (hr.2.symm.trans h) (by simp)
  repMax := hrep.le
  repIdle := nofun
  repGuard _ := hrep
  countMax := hmax
  countZero := nofun
  countPos _ := hpos
  unconfigured h := absurd (hr.1.symm.trans h) (by simp)

/-- Idle, with the timer stopped. -/
theorem schedInv_idle : SchedInv (setSched ⟨.idle, 0, false⟩ (setTimer ⟨false, 0⟩ s)) where
  valid := by simp
  armed _ := by simp
  stopped _ := rfl
  repMax := Nat.zero_le _
  repIdle _ := rfl
  repGuard := nofun
  countMax := Nat.zero_le _
  countZero _ := rfl
  countPos := nofun
  unconfigured _ := ⟨rfl, rfl⟩

end

/-! ## The invariant under each change of state -/

theorem MemInv.congr {s t : State} (h : MemInv s) (hb : t.build = s.build) (hm : ∀ k, memOf k t = memOf k s) :
    MemInv t := fun k => by rw [hm, hb]; exact h k

namespace Inv

variable {s t : State}

/-- The invariant reads no radio register, counter, response, pin, request, answer, input or draw. -/
theorem of_frame (hs : Inv s) (h : t = { s with
    radio := t.radio, cnt := t.cnt, rsp := t.rsp, irq := t.irq, requests := t.requests, answers := t.answers,
    inputs := t.inputs, draws := t.draws }) : Inv t := by
  rw [h]
  exact { hs with
    mem := hs.mem.congr rfl fun k => by cases k <;> rfl
    ring := { hs.ring with }
    written := { hs.written with }
    sched := { hs.sched with }
    fault := { hs.fault with } }

theorem setDraws (hs : Inv s) (k : Nat) : Inv (setDraws k s) := hs.of_frame rfl

theorem setAnswers (hs : Inv s) (a : Answers) : Inv (setAnswers a s) := hs.of_frame rfl

/-- The fault entry stops the timer and names its cause (60_exceptions.md R241). -/
theorem raiseFault (hs : Inv s) (c : Cause) (op : BitVec 5) : Inv (raiseFault c op s) :=
  { hs with
    mem := hs.mem.congr rfl fun k => by cases k <;> rfl
    ring := { hs.ring with }
    written := { hs.written with }
    sched := { hs.sched with
      armed := nofun
      stopped := fun _ => rfl
      countMax := Nat.zero_le _
      countZero := fun _ => rfl
      countPos := nofun
      unconfigured := fun h => ⟨(hs.sched.unconfigured h).1, rfl⟩ }
    fault := ⟨nofun, fun _ => ⟨c, rfl⟩⟩ }

/-- `STATE`, `REP`, `VALID` and the timer written together, where the scheduler invariants hold of what is written. -/
theorem reschedule (hs : Inv s) {c : SchedRegs} {v : TimerRegs} (h : SchedInv (setSched c (setTimer v s))) :
    Inv (setSched c (setTimer v s)) :=
  { hs with
    mem := hs.mem.congr rfl fun k => by cases k <;> rfl
    ring := { hs.ring with }
    written := { hs.written with }
    sched := h
    fault := { hs.fault with } }

/-- Bytes written to a memory but RXQ's (20_memory.md R60). -/
theorem setMem (hs : Inv s) {k : MemKind} (hk : k ≠ .rxq) {m : Memory} (hwf : m.wf = true)
    (hbelow : m.below (memSize s.build k) = true) : Inv (setMem k m s) := by
  have hmem : MemInv (Machine.setMem k m s) := by
    intro j
    rw [setMem_build, memOf_setMem]
    split
    next hj => rw [hj]; exact ⟨hwf, hbelow⟩
    next hj => exact hs.mem j
  cases k with
  | rxq => exact absurd rfl hk
  | frameBuf | stage =>
    exact { hs with
      mem := hmem
      ring := { hs.ring with }
      written := { hs.written with }
      sched := { hs.sched with }
      fault := { hs.fault with } }
  | txq =>
    exact { hs with
      mem := hmem
      ring := { hs.ring with
        txqShape := { hs.ring.txqShape with }
        txqLag := fun hc => { hs.ring.txqLag hc with } }
      written := { hs.written with }
      sched := { hs.sched with }
      fault := { hs.fault with } }

/-- TXQ's cursors and reservation written, where the ring laws hold of what is written. -/
theorem setTxq (hs : Inv s) (hc : s.cfg.configured = true) {q : Ring} {reserved : Bool} (hok : RingOk s.build q)
    (hm : q.mem = s.txq.mem) (he : q.e = s.txq.e) (hn : q.n = s.txq.n)
    (hres : reserved = true → fullP s.build q = false) : Inv (setTxqReserved reserved (setTxq q s)) :=
  { hs with
    mem := hs.mem.congr rfl fun k => by
      cases k with
      | txq => exact hm
      | frameBuf | stage | rxq => rfl
    ring := { hs.ring with
      txqShape := hs.ring.txqShape.of_ringOk hc hok he hn
      txqLag := fun _ => hok.lag
      reserved := fun h => ⟨hc, hres h⟩ }
    written := { hs.written with }
    sched := { hs.sched with }
    fault := { hs.fault with } }

/-- RXQ's region, cursors and ownership written, where the ring laws hold and every byte the host can come to read is
written (42_ring.md R195). -/
theorem setRxq (hs : Inv s) (hc : s.cfg.configured = true) {q : Ring} {owned : Bool} {slot : BitVec 16}
    (hok : RingOk s.build q) (he : q.e = s.rxq.e) (hn : q.n = s.rxq.n) (hwf : q.mem.wf = true)
    (hbelow : q.mem.below s.build.ringBytes.toNat = true)
    (hslot : owned = true → slot.toNat = cursorDist q.n q.r 1)
    (hcommitted : ∀ cells ∈ entries q, none ∉ cells) (howned : owned = true → none ∉ slotBytes q slot.toNat) :
    Inv (setRxqOslot slot (setRxqOwned owned (setRxq q s))) :=
  { hs with
    mem := fun k => by
      cases k with
      | rxq => exact ⟨hwf, hbelow⟩
      | frameBuf => exact hs.mem .frameBuf
      | stage => exact hs.mem .stage
      | txq => exact hs.mem .txq
    ring := { hs.ring with
      rxqShape := hs.ring.rxqShape.of_ringOk hc hok he hn
      rxqLag := fun _ => hok.lag
      owned := fun h => ⟨hc, hslot h⟩ }
    written := ⟨hcommitted, howned⟩
    sched := { hs.sched with }
    fault := { hs.fault with } }

/-- Both chains shifted: the views only catch up (42_ring.md R200, R202). -/
theorem syncShift (hs : Inv s) : Inv (syncShift s) := by
  have hshape : ∀ {q : Ring}, RingShape s.build s.cfg q → RingShape s.build s.cfg (shiftRing q) := fun h =>
    { h with
      rsyncLen := by simpa [shiftRing, shiftChain] using h.rsyncLen
      wsyncLen := by simpa [shiftRing, shiftChain] using h.wsyncLen }
  unfold Machine.syncShift
  cases s.build.cdcMode with
  | sync => exact hs
  | gray =>
    exact { hs with
      mem := hs.mem.congr rfl fun k => by cases k <;> rfl
      ring := { hs.ring with
        txqShape := hshape hs.ring.txqShape
        rxqShape := hshape hs.ring.rxqShape
        txqLag := fun hc => (hs.txqOk hc).shift.lag
        rxqLag := fun hc => (hs.rxqOk hc).shift.lag
        reserved := fun h => by
          obtain ⟨hc, hf⟩ := hs.ring.reserved h
          exact ⟨hc, (hs.txqOk hc).fullP_shift hf⟩ }
      written := hs.written.congr rfl rfl rfl rfl rfl rfl rfl
      sched := { hs.sched with }
      fault := { hs.fault with } }

end Inv

end Sys2Proof.Safety

/-! Every operation, and so every cycle, keeps the invariant (spec 40_scheduler.md R117, 42_ring.md R195, R198,
R202). -/

namespace Sys2Proof.Machine

open Sys2Proof Sys2Proof.Safety

/-! ## A cycle without `rst` (60_exceptions.md R244) -/

theorem step_of_not_rst {s : State} (h : (nextInput s).rst = false) :
    Machine.step s =
      andThen (eventStep (nextInput s) (openCycle s)) fun u =>
        andThen (tickStep (nextInput s) u) fun v =>
          andThen (commandStep (nextInput s) v) fun w => .next (closeCycle w) := by
  unfold Machine.step cycle
  exact if_neg (by simp [h])

/-! ## What a reception does to RXQ -/

/-- A reception counts, and at most stores one payload of a whole entry in the slot at the write cursor of a ring with
room and publishes it (41_codec.md R164, 42_ring.md R195). -/
inductive Received (s t : State) : Prop where
  | counted (c : Counters) (h : t = { s with cnt := c })
  | stored (c : Counters) (p : List Byte) (hroom : fullP s.build s.rxq = false) (hlen : p.length = s.rxq.e.toNat)
      (h : t = { s with
        cnt := c
        rxq := { s.rxq with
          mem := s.rxq.mem.writeBytes (slotBase s.rxq s.rxq.w) p, w := nextSlot s.rxq s.rxq.w } })

theorem received_of_rxqDeliver {s t : State} {p : List Byte} {c : Counter} (hlen : p.length = s.rxq.e.toNat)
    (h : rxqDeliver p (count c s) = .next t) : Received s t := by
  rcases rxqDeliver_eq_next.1 h with ⟨_, rfl⟩ | ⟨hroom, _, rfl⟩
  · exact .counted _ rfl
  · refine .stored (s.cnt.bump c) p hroom hlen ?_
    rw [count_rxq, ← hlen, List.take_length]
    rfl

/-- A decoded payload is as long as an entry (41_codec.md R159). -/
theorem received_of_decodeFrame {s t : State} {bits : List Bool} (he : s.rxq.e = s.cfg.plen)
    (h : receive (decodeFrame s.cfg bits) s = .next t) : Received s t := by
  cases hd : decodeFrame s.cfg bits with
  | linecodeFail | checksumFail | eccFail => rw [hd] at h; cases h; exact .counted _ rfl
  | ok p =>
    rw [hd] at h
    exact received_of_rxqDeliver ((decodeFrame_payload_length (.inl hd)).trans (by rw [he])) h
  | okCorrected p =>
    rw [hd] at h
    exact received_of_rxqDeliver ((decodeFrame_payload_length (.inr hd)).trans (by rw [he])) h

end Sys2Proof.Machine

namespace Sys2Proof.Safety

open Sys2Proof Sys2Proof.Machine

namespace Inv

variable {s t : State}

/-! ## The scheduler's operations -/

theorem afterRetry (hs : Inv s) : Inv (afterRetry s) := by
  refine hs.of_frame ?_
  unfold Safety.afterRetry
  split <;> rfl

/-- A repetition entered in Sending with repetitions left (40_scheduler.md R107). -/
theorem repeatedState (hs : Inv s) (hr : Ready s) {rep : BitVec 4} (hrep : rep.toNat < s.cfg.n.toNat)
    (v : TimerRegs) : Inv (repeatedState (setSched ⟨.sending, rep, true⟩ (setTimer v s))) := by
  have hl := hs.cfgLegal hr
  have hn := hl.station
  have hperiod : (BitVec.ofNat 32 (period s)).toNat = period s := hl.period_toNat hs.build
  have hpos : 1 ≤ (BitVec.ofNat 32 (period s)).toNat := by rw [hperiod]; exact hl.one_le_period hs.build
  have hmax : (BitVec.ofNat 32 (period s)).toNat ≤ s.cfg.guard.toNat := by
    rw [hperiod]; exact hl.period_le_guard hs.build
  unfold Machine.repeatedState
  split
  · have hrep' : (rep + 1).toNat ≤ s.cfg.n.toNat := by bv_omega
    exact (hs.reschedule (schedInv_sending hr hrep' hpos hmax)).of_frame rfl
  · exact (hs.reschedule (schedInv_sending hr hrep.le hpos hmax)).of_frame rfl

/-- The start of a sequence, from any state of the scheduler (40_scheduler.md R110). -/
theorem startSend (hs : Inv s) (hr : Ready s) {p : List Byte} (h : startSend p s = .next t) : Inv t := by
  have hl := hs.cfgLegal hr
  have hn : 0 < s.cfg.n.toNat := hs.station_pos hr.1
  obtain ⟨hfit, hd⟩ := startSend_eq_next.1 h
  rw [dispatchSending_next (s := startedState p s) hl hn] at hd
  cases hd
  obtain ⟨hwf, hbelow⟩ := hs.mem .frameBuf
  have hbuf := hs.setMem (k := .frameBuf) (by simp)
    (Memory.wf_writeBytes (pack (frame s.build.preamble s.cfg.codec p)) _ 0 hwf)
    (Memory.below_writeBytes _ _ 0 hbelow (by rw [Nat.zero_add, pack_frame_length]; exact hfit))
  exact hbuf.repeatedState hr (rep := 0) hn s.timer

/-- Idle entry (40_scheduler.md R109). -/
theorem idleEntry (hs : Inv s) (hr : Ready s) (h : idleEntry s = .next t) : Inv t := by
  rcases idleEntry_eq_next.1 h with ⟨_, rfl⟩ | ⟨hq, _, hsend⟩
  · exact hs.of_frame rfl
  · have hok := hs.txqOk hr.1
    have hpop := hs.setTxq hr.1 (reserved := s.txqReserved) (hok.take hq) rfl rfl rfl
      fun hres => hok.fullP_take hq (hs.ring.reserved hres).2
    exact (hpop.setDraws _).startSend hr hsend

/-- The expiry of the timer, in each state of the scheduler in which it runs (40_scheduler.md R105). -/
theorem dispatch (hs : Inv s) (hr : Ready s) (ha : s.timer.armed = true)
    (h : dispatch (setTimer ⟨false, 0⟩ s) = .next t) : Inv t := by
  have hl := hs.cfgLegal hr
  rcases dispatch_eq_next.1 h with ⟨hst, hd⟩ | ⟨hst, hi⟩ | ⟨hst, _⟩
  · have hsched := hs.sched_eq_of_sending hst
    rcases Nat.lt_or_ge s.sched.rep.toNat s.cfg.n.toNat with hlt | hge
    · rw [dispatchSending_next (s := setTimer ⟨false, 0⟩ s) hl hlt] at hd
      cases hd
      have hrep := hs.repeatedState hr hlt ⟨false, 0⟩
      rwa [← hsched] at hrep
    · rw [dispatchSending_last (s := setTimer ⟨false, 0⟩ s) hge] at hd
      cases hd
      have hguard : BitVec.ofNat 32 s.cfg.guard.toNat = s.cfg.guard := by simp
      have hpos : 1 ≤ s.cfg.guard.toNat := (hl.one_le_period hs.build).trans (hl.period_le_guard hs.build)
      refine (hs.reschedule (schedInv_waitGuard hr (Nat.le_antisymm hs.sched.repMax hge) hpos le_rfl)).of_frame ?_
      rw [← hguard]
      rfl
  · have hv := hs.valid_eq_false (by rw [show s.sched.state = .waitGuard from hst]; simp)
    simp only [setTimer_sched, hv] at hi
    exact (hs.reschedule schedInv_idle).idleEntry hr hi
  · exact absurd hst ((hs.sched.armed hr.2).1 ha)

/-- The countdown of an accepted tick (40_scheduler.md R104). -/
theorem countdown (hs : Inv s) (hr : Ready s) (h : countdown s = .next t) : Inv t := by
  rcases countdown_eq_next.1 h with ⟨_, rfl⟩ | ⟨ha, hc, rfl⟩ | ⟨ha, _, hd⟩
  · exact hs
  · have hone : 1 ≤ s.timer.count.toNat := hs.sched.countPos ha
    have hsub := count_sub_one_toNat hone
    have hne : s.timer.count.toNat ≠ 1 := fun h1 => hc (BitVec.eq_of_toNat_eq h1)
    have hmax := hs.sched.countMax
    refine hs.reschedule (c := s.sched) (v := ⟨true, s.timer.count - 1⟩) { hs.sched with
      armed := fun hf => ⟨fun _ => (hs.sched.armed hf).1 ha, fun _ => rfl⟩
      stopped := fun hf => absurd (hr.2.symm.trans hf) (by simp)
      countMax := ?_
      countZero := nofun
      countPos := fun _ => ?_
      unconfigured := fun hc => absurd (hr.1.symm.trans hc) (by simp) }
    · show (s.timer.count - 1).toNat ≤ s.cfg.guard.toNat
      omega
    · show 1 ≤ (s.timer.count - 1).toNat
      omega
  · exact hs.dispatch hr ha hd

/-! ## Receiving and the host side of RXQ -/

/-- A reception: the entry published is written whole, and the owned slot is another one (42_ring.md R195). -/
theorem receive (hs : Inv s) (hr : Ready s) {bits : List Bool}
    (h : receive (decodeFrame s.cfg bits) s = .next t) : Inv t := by
  have hok := hs.rxqOk hr.1
  cases received_of_decodeFrame hs.ring.rxqShape.entry h with
  | counted c ht => rw [ht]; exact hs.of_frame rfl
  | stored c p hroom hlen ht =>
    obtain ⟨hwf, hbelow⟩ := hs.mem .rxq
    have hfit := hs.ring.rxqShape.slot_fits hr.1 (hs.cfgLegal hr) hok.wBound
    have hentries := entries_deliver hok hroom hlen
    rw [ht]
    refine (hs.setRxq (owned := s.rxqOwned) (slot := s.rxqOslot) hr.1 (hok.publish hroom _) rfl rfl
      (Memory.wf_writeBytes p _ _ hwf) (Memory.below_writeBytes p _ _ hbelow (by rw [hlen]; exact hfit))
      (fun ho => (hs.ring.owned ho).2) (fun cells hcells => ?_) fun ho => ?_).of_frame rfl
    · rcases List.mem_append.1 (hentries ▸ hcells) with hold | hnew
      · exact hs.written.committed cells hold
      · rw [List.mem_singleton.1 hnew]
        simp
    · have hkept := slotBytes_writeBytes_of_ne (hs.ownedSlot_ne_write ho hroom) hlen.le
      exact hkept ▸ hs.written.owned ho

/-- A pop ends the ownership before it, and owns the entry it finds (42_ring.md R192). -/
theorem rxqTake (hs : Inv s) (hr : Ready s) (he : emptyC s.build s.rxq = false) :
    Inv (rxqTake (setRxqOwned false s)) := by
  have hok := hs.rxqOk hr.1
  have hc : countC s.build s.rxq ≠ 0 := fun h0 => by simp [hok.emptyC_iff.2 h0] at he
  have hentries := hok.entries_take hc
  have hlt := hok.ringCount_lt
  have hpos := hok.ringCount_pos hc
  have hr' := hok.rBound
  obtain ⟨hwf, hbelow⟩ := hs.mem .rxq
  refine (hs.setRxq (owned := true) (slot := s.rxq.r) hr.1 (hok.take hc) rfl rfl hwf hbelow (fun _ => ?_)
    (fun cells hcells => hs.written.committed cells ?_) fun _ => hs.written.committed _ ?_).of_frame rfl
  · have hone : (1 : BitVec 16).toNat < s.rxq.n.toNat := by show 1 < _; omega
    change _ = cursorDist s.rxq.n (nextSlot s.rxq s.rxq.r) 1
    rw [cursorDist_eq (nextSlot_lt hr') hone, nextSlot_eq hr', show (1 : BitVec 16).toNat = 1 from rfl]
    split_ifs <;> omega
  · rw [hentries]; exact List.mem_cons_of_mem _ hcells
  · rw [hentries]; exact List.mem_cons_self

/-- RXQ let go of. -/
theorem disown (hs : Inv s) : Inv (setRxqOwned false s) :=
  { hs with
    mem := hs.mem.congr rfl fun k => by cases k <;> rfl
    ring := { hs.ring with owned := nofun }
    written := { hs.written with owned := nofun }
    sched := { hs.sched with }
    fault := { hs.fault with } }

/-! ## CFG -/

/-- An accepted `CFG`: a legal configuration, both rings new and empty, the scheduler Idle (40_scheduler.md R111). -/
theorem cfgApply (hs : Inv s) {i n plen : BitVec 8} {codec : LineCode} (h : CfgAccepted s i n plen codec) :
    Inv (cfgApply i n plen codec s) := by
  have hl := cfgLegal_of_accepted h
  have hok : ∀ q, RingOk s.build (ringCreate s.build plen q) := fun q =>
    ringOk_ringCreate hs.build (by rw [ringCreate_n_toNat h.slots]; exact slotsOf_pos h.slots)
  have hshape : ∀ q, RingShape s.build (cfgRegsOf s.build i n plen codec) (ringCreate s.build plen q) := fun q =>
    { rsyncLen := rfl
      wsyncLen := rfl
      entry := rfl
      slots := ringCreate_n_toNat h.slots q
      wBound := fun _ => (hok q).wBound
      rBound := fun _ => (hok q).rBound
      wZero := nofun
      rZero := nofun }
  exact {
    build := hs.build
    mem := hs.mem.congr rfl fun k => by cases k <;> rfl
    config := ⟨fun _ => hl, nofun⟩
    ring := {
      txqShape := hshape _
      rxqShape := hshape _
      txqLag := fun _ => (hok _).lag
      rxqLag := fun _ => (hok _).lag
      reserved := nofun
      owned := nofun }
    written := .of_empty rfl rfl
    sched := { (schedInv_idle (s := setCfg (cfgRegsOf s.build i n plen codec) s)) with unconfigured := nofun }
    fault := { hs.fault with } }

/-! ## Operations and cycles -/

/-- What an accepted operation does keeps the invariant. -/
theorem acts (hs : Inv s) {i : Instr} (h : Acts i s t) : Inv t := by
  cases i with
  | nop => cases h; exact hs.of_frame rfl
  | cfg =>
    obtain ⟨hf, hc, rfl⟩ := h
    rw [restoreRx_eq_restored]
    exact (hs.cfgApply ((cfgCheck_eq_none_iff hf).1 hc)).of_frame rfl
  | stageWr off data =>
    obtain ⟨_, _, hfit, rfl⟩ := h
    obtain ⟨hwf, hbelow⟩ := hs.mem .stage
    exact (hs.setMem (k := .stage) (by simp) (Memory.wf_write hwf _ _) (Memory.below_write hbelow hfit)).of_frame rfl
  | send =>
    obtain ⟨hr, ⟨rfl, _⟩ | ⟨_, _, _, u, hu, rfl⟩⟩ := h
    · exact hs.of_frame rfl
    · exact ((hs.setDraws (s.stage.readBytes 0 s.cfg.plen.toNat s.draws).2).startSend hr hu).of_frame rfl
  | txqReserve =>
    obtain ⟨hr, _, ⟨_, rfl⟩ | ⟨hroom, rfl⟩⟩ := h
    · exact hs.of_frame rfl
    · exact (hs.setTxq hr.1 (hs.txqOk hr.1) (reserved := true) rfl rfl rfl fun _ => hroom).of_frame rfl
  | txqWr off data =>
    obtain ⟨_, _, _, hfit, rfl⟩ := h
    obtain ⟨hwf, hbelow⟩ := hs.mem .txq
    exact (hs.setMem (k := .txq) (by simp) (Memory.wf_write hwf _ _) (Memory.below_write hbelow hfit)).of_frame rfl
  | txqCommit =>
    obtain ⟨hr, hres, rfl⟩ := h
    have hok := (hs.txqOk hr.1).publish (hs.ring.reserved hres).2 s.txq.mem
    exact (hs.setTxq hr.1 (reserved := false) hok rfl rfl rfl nofun).of_frame rfl
  | txqAbandon =>
    obtain ⟨hr, _, rfl⟩ := h
    exact (hs.setTxq hr.1 (hs.txqOk hr.1) (reserved := false) rfl rfl rfl nofun).of_frame rfl
  | rxqPop =>
    obtain ⟨hr, ⟨_, rfl⟩ | ⟨he, rfl⟩⟩ := h
    · exact hs.disown.of_frame rfl
    · exact (hs.rxqTake hr he).of_frame rfl
  | rxqRd => obtain ⟨_, _, _, _, rfl⟩ := h; exact hs.of_frame rfl
  | rdcsr => obtain ⟨_, _, _, rfl⟩ := h; exact hs.of_frame rfl
  | txqCount | rxqCount | clrcnt | evTxEmpty | evTxReady | evTxError => obtain ⟨_, rfl⟩ := h; exact hs.of_frame rfl
  | evRxEom => exact hs.receive h.1 h.2
  | tick =>
    obtain ⟨hr, ht⟩ := h
    exact hs.afterRetry.countdown (by simpa [Ready] using hr) ht

/-- Every operation keeps the invariant, whichever way it ends. -/
theorem exec (hs : Inv s) {i : Instr} (h : exec i s = .next t) : Inv t := by
  cases exec_ends h with
  | ignored _ _ ht => exact ht ▸ hs
  | refused _ _ _ ht => rw [ht]; exact hs.of_frame rfl
  | faulted op c _ _ ht => exact ht ▸ hs.raiseFault c _
  | acted ha => exact hs.acts ha

theorem eventStep (hs : Inv s) {c : CycleIn} (h : eventStep c s = .next t) : Inv t := by
  unfold Machine.eventStep at h
  split at h
  · exact ((hs.setAnswers _).setDraws _).exec h
  · cases h; exact hs

theorem tickStep (hs : Inv s) {c : CycleIn} (h : tickStep c s = .next t) : Inv t := by
  unfold Machine.tickStep at h
  split at h
  · exact (hs.setAnswers _).exec h
  · cases h; exact hs

theorem illegalCommand (hs : Inv s) (w : Word) : Inv (illegalCommand w s) := by
  unfold Machine.illegalCommand
  split
  · exact hs.of_frame rfl
  · exact hs.raiseFault _ _

theorem commandStep (hs : Inv s) {c : CycleIn} (h : commandStep c s = .next t) : Inv t := by
  unfold Machine.commandStep at h
  split at h
  · cases h; exact hs
  · split at h
    · exact (hs.setAnswers _).exec h
    · cases h; exact hs.illegalCommand _

/-- Every cycle keeps the invariant: its steps one after another, the shift and the pin; or the reset. -/
theorem step (hs : Inv s) (h : Machine.step s = .next t) : Inv t := by
  cases hrst : (nextInput s).rst with
  | true =>
    rw [step_of_rst hrst] at h
    cases h
    exact (inv_resetOf hs.build s.inputs.tail).of_frame rfl
  | false =>
    rw [step_of_not_rst hrst] at h
    obtain ⟨u, hu, h⟩ := andThen_eq_next.1 h
    obtain ⟨v, hv, h⟩ := andThen_eq_next.1 h
    obtain ⟨w, hw, h⟩ := andThen_eq_next.1 h
    cases h
    have hopen : Inv (openCycle s) := hs.of_frame rfl
    have hdone : Inv w := ((hopen.eventStep hu).tickStep hv).commandStep hw
    exact hdone.syncShift.of_frame rfl

end Inv

end Sys2Proof.Safety

namespace Sys2Proof.Proofs.Scheduler

open Sys2Proof Sys2Proof.Machine Sys2Proof.Safety

/-- Settles O16: each clause of the statement is one branch of `CFG`'s checks. -/
theorem cfgFaultsInOrder : Obligations.CfgFaultsInOrder := by
  intro i n plen codec s hf
  refine ⟨fun hidle => exec_cfg_rejected hf (c := .cfgBusy) (if_pos hidle), fun hidle => ⟨fun hn => ?_,
    fun hn => ⟨fun hi => ?_, fun hi => ⟨fun hp => ?_, fun hp hp' => ⟨fun hs => ?_, fun hs ht => ?_⟩⟩⟩⟩⟩
  · exact exec_cfg_rejected hf (c := .cfgBadCount) (by simp [cfgCheck, hidle, hn])
  · exact exec_cfg_rejected hf (c := .cfgBadId) (by simp [cfgCheck, hidle, hn, hi])
  · exact exec_cfg_rejected hf (c := .cfgBadLen) (by simp [cfgCheck, hidle, hn, Nat.not_le.2 hi, hp])
  · have hlen : ¬(plen.toNat = 0 ∨ s.build.payloadMax.toNat < plen.toNat) := by omega
    exact exec_cfg_rejected hf (c := .cfgRingTooSmall) (by simp [cfgCheck, hidle, hn, Nat.not_le.2 hi, hlen, hs])
  · have hlen : ¬(plen.toNat = 0 ∨ s.build.payloadMax.toNat < plen.toNat) := by omega
    rw [guardTicks_eq_guardOf _ _ _ hn] at ht
    refine exec_cfg_rejected hf (c := .cfgTimingOverflow) ?_
    simp only [cfgCheck, hidle, hn, Nat.not_le.2 hi, hlen, Nat.not_lt.2 hs, ht, ne_eq, not_true_eq_false, if_false,
      if_true]

/-- Settles O13: the registers a `CFG` writes, a return to receive mode and one empty pull. -/
theorem cfgCompletes : Obligations.CfgCompletes := by
  intro i n plen codec s h
  refine ⟨_, exec_cfg_accepted h, ?_, fun c => ?_⟩
  · rw [restoreRx_eq_restored]; rfl
  · have hans : (cfgApply i n plen codec s).answers = s.answers := rfl
    have hcnt : (cfgApply i n plen codec s).cnt = s.cnt := rfl
    rw [respond_cnt, count_cnt, Counters.get_bump_eq_add, restoreRx_cnt, hans, hcnt]
    cases s.answers.rx
    · rw [if_neg (by decide), Counters.get_bump_eq_add, BitVec.add_assoc]
      congr 1
      cases c <;> rfl
    · simp

/-- Settles O18: the first branch of `SEND`. -/
theorem sendRejected : Obligations.SendRejected := by
  intro s hr h
  change execSend s = _
  unfold execSend
  rw [command_ready hr.2 fun _ => hr.1, if_pos h]
  rfl

/-- Settles O17: the staged payload is read and `start_send` completes on it. -/
theorem sendStartsTheSequence : Obligations.SendStartsTheSequence := by
  intro s hs hr hst
  exact exec_send_idle hs hr hst

/-- Settles O28: behind the gate, the events are the return to receive mode, register by register. -/
theorem transceiverEvents : Obligations.TransceiverEvents := by
  intro s hr
  refine ⟨?_, gated_ready hr.2 hr.1, ?_⟩
  · rw [← restoreRx_eq_restored]
    exact gated_ready (body := fun s => .next (restoreRx s)) hr.2 hr.1
  · rw [← restoreRx_eq_restored]
    exact gated_ready (body := fun s => .next (restoreRx (count .txError s))) hr.2 hr.1

/-- Settles O29: the countdown of a stopped timer and of one with at least two ticks to go. -/
theorem tickCountsDown : Obligations.TickCountsDown := by
  intro s hr
  rw [exec_tick_ready hr]
  refine ⟨fun ha => countdown_stopped (by simpa using ha), fun ha hc => ?_⟩
  refine ⟨_, countdown_running (by simpa using ha) (by simpa using hc), rfl, ?_⟩
  rw [afterRetry_timer]
  exact count_sub_one_toNat (by omega)

/-- Settles O57: by induction on the number of ticks. -/
theorem waitExpiresOnTheLastTick : Obligations.WaitExpiresOnTheLastTick := by
  intro s k hr ha hx
  exact ⟨ticks_running hr ha hx, fun hpos hk => hk ▸ ticks_expired hr ha hx hpos⟩

/-- Settles O30: the expiry's dispatch is a repetition, which reads `TXLEN` bytes of `FRAME_BUF`. -/
theorem tickRepeatsTheFrame : Obligations.TickRepeatsTheFrame := by
  intro s hs hr ha hc hst hrep
  have hl := hs.cfgLegal hr
  have hsched := hs.sched_eq_of_sending hst
  have hn : s.cfg.n.toNat ≤ 3 := by have := hl.station; omega
  have hexec : exec .tick s = .next (repeatedState (setTimer ⟨false, 0⟩ (afterRetry s))) := by
    rw [exec_tick_dispatch hr ha hc, dispatch_sending (by simpa using hst),
      dispatchSending_next (by simpa using hl) (by simpa using hrep)]
  have htimer : (repeatedState (setTimer ⟨false, 0⟩ (afterRetry s))).timer =
      ⟨true, BitVec.ofNat 32 (s.cfg.kI.toNat * s.cfg.delta.toNat)⟩ := by
    rw [← afterRetry_cfg s]; unfold repeatedState; split <;> rfl
  have hheld : heldFrame (setTimer ⟨false, 0⟩ (afterRetry s)) = heldFrame s :=
    heldFrame_congr (by simp) (by simp) (by simp)
  refine ⟨(heldFrame s).1, _, hexec, ?_, ?_, fun hans => ?_, fun hans => ?_⟩
  · rw [← hl.frameBits_bytes]
    simpa using reads_readBytes s.frameBuf 0 (frameBytes s) s.draws
  · rw [htimer]; exact hl.period_toNat hs.build
  · have hcnt : (afterRetry s).cnt.txKeyupFail = s.cnt.txKeyupFail :=
      afterRetry_cnt_get s (c := .txKeyupFail) (by decide)
    rw [htimer, ← hcnt, repeatedState, if_neg (by simp [hans]), ← afterRetry_cfg s]
    rfl
  · have hsent : repeatedState (setTimer ⟨false, 0⟩ (afterRetry s)) =
        sentState (setTimer ⟨false, 0⟩ (afterRetry s)) := if_pos (by simpa using hans)
    have hcnt : (afterRetry s).cnt.txSent = s.cnt.txSent := afterRetry_cnt_get s (c := .txSent) (by decide)
    have hrep' : (s.sched.rep + 1).toNat = s.sched.rep.toNat + 1 := by bv_omega
    rw [htimer, hsent, sentState_eq, hheld, ← hcnt]
    simp only [setTimer_sched, setTimer_cfg, afterRetry_sched, afterRetry_cfg, hrep', and_true]
    rw [hsched]
    simp [setTimer, period, Counters.bump]

/-- Settles O31: the guard armed, or idle entry on an empty ring. -/
theorem tickEndsTheSequence : Obligations.TickEndsTheSequence := by
  intro s hs hr ha hc
  refine ⟨fun hst hrep => ?_, fun hst hq => ?_⟩
  · rw [exec_tick_dispatch hr ha hc, dispatch_sending (by simpa using hst), dispatchSending_last (by simp [hrep])]
    simp [endCycle, arm, setTimer, setSched]
  · rw [exec_tick_dispatch hr ha hc, dispatch_waitGuard (by simpa using hst), idleEntry_empty (by simpa using hq)]
    have hv := hs.valid_eq_false (by simp [hst])
    have hcnt : (afterRetry s).cnt.txqEmptyPull = s.cnt.txqEmptyPull :=
      afterRetry_cnt_get s (c := .txqEmptyPull) (by decide)
    rw [← hcnt]
    simp [setTimer, setSched, hv, count, Counters.bump, setCnt]

/-- Settles O32: idle entry reads the slot at the read cursor, moves the cursor on and starts the sequence. -/
theorem tickPullsTheOldestEntry : Obligations.TickPullsTheOldestEntry := by
  intro s hs hr ha hc hst hq
  have hl := hs.cfgLegal hr
  have hshape := hs.ring.txqShape
  have hbound := hshape.rBound hr.1
  obtain ⟨p, t, hreads, hidle, hstarted⟩ := idleEntry_pull
    (s := setSched ⟨.idle, 0, (afterRetry s).sched.valid⟩ (setTimer ⟨false, 0⟩ (afterRetry s)))
    (by simpa using hs.build) (by simpa using hl) (by simpa using hshape.entry)
    (by simpa using hshape.slot_fits hr.1 hl hbound) (by simpa using hq)
  have hexec : exec .tick s = .next t := by
    rw [exec_tick_dispatch hr ha hc, dispatch_waitGuard (by simpa using hst)]
    exact hidle
  refine ⟨p, nextSlot s.txq s.txq.r, t, hexec, by simpa using hreads, nextSlot_toNat _ _ hbound, ?_⟩
  rw [← afterRetry_txq s]
  exact started_of_set (s := txqPop (afterRetry s)) (k := (afterRetry s).draws) hstarted

/-- Settles O58: whole periods by induction on the repetitions, the rest of a period and the guard by the countdown. -/
theorem sequenceTiming : Obligations.SequenceTiming := by
  intro s hs hr hst hans hreq
  have hl := hs.cfgLegal hr
  have hn : 0 < s.cfg.n.toNat := hs.station_pos hr.1
  have hpos : 0 < period s := hl.one_le_period hs.build
  have hguard : 1 ≤ s.cfg.guard.toNat := Nat.le_trans hpos (hl.period_le_guard hs.build)
  obtain ⟨p, t, hreads, hstarted, hexec⟩ := exec_send_idle hs hr hst
  have hfirst := hstarted.repeating hl (by simpa [stagedBytes] using hreads.length_eq) hans hreq
  obtain ⟨v, hlast, hend⟩ := hfirst.guard_begins hs hr hans
  simp only [show s.cfg.kI.toNat * s.cfg.delta.toNat = period s from rfl]
  refine ⟨frame s.build.preamble s.cfg.codec p, _, hexec, fun k hk => ?_, fun hq => ?_⟩
  · split
    next hsend => exact hfirst.sending_at hs hr hans hsend
    next hwait =>
      obtain ⟨d, rfl⟩ := Nat.exists_eq_add_of_le (Nat.not_lt.1 hwait)
      have hperiods : s.cfg.n.toNat ≤ (s.cfg.n.toNat * period s + d) / period s :=
        (Nat.le_div_iff_mul_le hpos).2 (Nat.le_add_right _ _)
      refine ⟨_, by rw [ticks_add, hend, andThen_next, hlast.waiting hr (by omega)], ?_, rfl⟩
      rw [Nat.min_eq_right (by omega), Nat.add_sub_cancel' hn]
      exact hlast.guardState_requests
  · have hdone := hlast.finished hr hguard hq
    rw [← andThen_next (Repeating.guardState v) (ticks _), ← hend, ← ticks_add] at hdone
    exact ⟨_, hdone, hlast.guardState_requests, rfl, rfl, congrArg (· + 1) hlast.pulls⟩

/-- Settles O44: the steps of a cycle, each of which keeps the invariant. -/
theorem stepKeepsInvariant : Obligations.StepKeepsInvariant := fun _ _ hs h => hs.step h

/-- Settles O46: the items of R117 are what the invariant says of the scheduler of a core that is not faulted. -/
theorem schedulerInvariants : Obligations.SchedulerInvariants := by
  intro s t hs h hf
  have ht := (hs.step h).sched
  have hactive : t.sched.state ≠ .idle ↔ t.sched.state = .sending ∨ t.sched.state = .waitGuard := by
    cases t.sched.state <;> decide
  have hstates : t.sched.state = .idle ∨ t.sched.state = .sending ∨ t.sched.state = .waitGuard := by
    cases t.sched.state <;> decide
  refine ⟨hstates, ht.valid, (ht.armed hf).trans hactive, ⟨ht.repMax, ht.repIdle, ht.repGuard⟩,
    ⟨ht.countMax, ht.countZero⟩, fun hc => ?_⟩
  obtain ⟨hidle, hstopped⟩ := ht.unconfigured hc
  exact ⟨hidle, ht.repIdle hidle, (hs.step h).valid_eq_false (by simp [hidle]), hstopped⟩

end Sys2Proof.Proofs.Scheduler

/-! The CRC engine (spec 41_codec.md R146 to R149): the computation is linear over GF(2), so that the residual of a
message with inverted bits is the syndrome of those bits; and no two bits of a message have the same syndrome. -/

namespace Sys2Proof.Machine

open Sys2Proof

/-! ## The computation is linear (R147) -/

@[simp] theorem crcBit_zero : crcBit 0 = 0 := rfl

theorem crcBit_of_msb_clear {c : Word} (h : c.getLsbD 31 = false) : crcBit c = c <<< 1 :=
  if_neg (by rw [h]; decide)

theorem xor_interchange {w : Nat} (a b c d : BitVec w) : (a ^^^ b) ^^^ (c ^^^ d) = (a ^^^ c) ^^^ (b ^^^ d) := by
  ac_rfl

theorem crcBit_xor (c d : Word) : crcBit (c ^^^ d) = crcBit c ^^^ crcBit d := by
  have hstep (c : Word) : crcBit c = (c <<< 1) ^^^ (if c.getLsbD 31 then crcPoly else 0) := by
    unfold crcBit
    split <;> simp
  rw [hstep, hstep c, hstep d, xor_interchange, ← BitVec.shiftLeft_xor_distrib, BitVec.getLsbD_xor]
  cases c.getLsbD 31 <;> cases d.getLsbD 31 <;> rfl

theorem crcBit_iterate_xor (n : Nat) (c d : Word) : crcBit^[n] (c ^^^ d) = crcBit^[n] c ^^^ crcBit^[n] d := by
  induction n generalizing c d with
  | zero => rfl
  | succ n ih => simp only [Function.iterate_succ_apply, crcBit_xor, ih]

theorem crcByte_xor (c d : Word) (a b : Byte) : crcByte (c ^^^ d) (a ^^^ b) = crcByte c a ^^^ crcByte d b := by
  have hin : (c ^^^ d) ^^^ ((a ^^^ b).setWidth 32 <<< 24) =
      (c ^^^ (a.setWidth 32 <<< 24)) ^^^ (d ^^^ (b.setWidth 32 <<< 24)) := by
    rw [BitVec.setWidth_xor, BitVec.shiftLeft_xor_distrib, xor_interchange]
  simp only [crcByte, hin, crcBit_iterate_xor]

theorem foldl_crcByte_zipWith_xor (c d : Word) (a e : List Byte) (h : a.length = e.length) :
    (List.zipWith (· ^^^ ·) a e).foldl crcByte (c ^^^ d) = a.foldl crcByte c ^^^ e.foldl crcByte d := by
  induction a generalizing c d e with
  | nil => cases e <;> simp_all
  | cons x a ih =>
    cases e with
    | nil => simp at h
    | cons y e =>
      simp only [List.zipWith_cons_cons, List.foldl_cons, crcByte_xor]
      exact ih _ _ e (by simpa using h)

/-- The CRC is affine (R147). -/
theorem checksum_zipWith_xor {a e : List Byte} (h : a.length = e.length) :
    checksum (List.zipWith (· ^^^ ·) a e) = checksum a ^^^ crc0 e := by
  rw [checksum, checksum, crc0, ← foldl_crcByte_zipWith_xor _ _ a e h]
  rfl

/-! ## Zero residual (R147) -/

/-- While the bits that leave the register at its top are 0, the computation only shifts. -/
theorem crcBit_iterate_of_top_clear {n : Nat} (hn : n ≤ 32) {v : Word}
    (h : ∀ k, 32 - n ≤ k → v.getLsbD k = false) : crcBit^[n] v = v <<< n := by
  induction n generalizing v with
  | zero => simp
  | succ n ih =>
    rw [Function.iterate_succ_apply, crcBit_of_msb_clear (h 31 (by omega)), ih (by omega) fun k hk => ?_,
      ← BitVec.shiftLeft_add, Nat.add_comm]
    rw [BitVec.getLsbD_shiftLeft, h (k - 1) (by omega), Bool.and_false]

/-- A byte equal to the register's top byte leaves through it. -/
theorem crcByte_topByte (c : Word) : crcByte c (c.extractLsb' 24 8) = c <<< 8 := by
  have hclear : ∀ k, 24 ≤ k → (c ^^^ ((c.extractLsb' 24 8).setWidth 32 <<< 24)).getLsbD k = false := by
    intro k hk
    by_cases hk' : k < 32
    · simp [hk', show ¬ k < 24 by omega, show k - 24 < 8 by omega, show 24 + (k - 24) = k by omega]
    · exact BitVec.getLsbD_of_ge _ _ (by omega)
  rw [crcByte, crcBit_iterate_of_top_clear (by omega) hclear, BitVec.shiftLeft_xor_distrib, ← BitVec.shiftLeft_add,
    BitVec.shiftLeft_eq_zero (x := (c.extractLsb' 24 8).setWidth 32) (by omega), BitVec.xor_zero]

/-- The register's own four bytes, most significant first, leave it 0. -/
theorem foldl_crcByte_be32 (c : Word) : (be32 c).foldl crcByte c = 0 := by
  have hnext (n : Nat) (hn : n ≤ 24) : (c <<< n).extractLsb' 24 8 = c.extractLsb' (24 - n) 8 := by
    ext k hk
    rw [BitVec.getElem_extractLsb', BitVec.getElem_extractLsb', BitVec.getLsbD_shiftLeft,
      show 24 + k - n = 24 - n + k by omega]
    simp [show ¬ 24 + k < n by omega, show 24 + k < 32 by omega]
  have hstep (n : Nat) (hn : n ≤ 24) : crcByte (c <<< n) (c.extractLsb' (24 - n) 8) = c <<< (n + 8) := by
    rw [← hnext n hn, crcByte_topByte, BitVec.shiftLeft_add]
  have h0 := hstep 0 (by omega)
  rw [BitVec.shiftLeft_zero] at h0
  simp only [be32, List.foldl_cons, List.foldl_nil]
  rw [h0, hstep 8 (by omega), hstep 16 (by omega), hstep 24 (by omega)]
  exact BitVec.shiftLeft_eq_zero (by omega)

/-- A message has residual 0 (R147). -/
theorem checksum_message (p : List Byte) : checksum (message p) = 0 := by
  rw [message, checksum, List.foldl_append]
  exact foldl_crcByte_be32 _

/-! ## Syndromes (R149, R150) -/

theorem crcBit_injective : Function.Injective crcBit := by
  have hker : ∀ c, crcBit c = 0 → c = 0 := by
    intro c h
    cases hmsb : c.getLsbD 31
    · rw [crcBit_of_msb_clear hmsb] at h
      refine BitVec.eq_of_getLsbD_eq fun k hk => ?_
      have hk' := congrArg (fun v : Word => v.getLsbD (k + 1)) h
      rcases Nat.lt_or_eq_of_le (Nat.le_of_lt_succ hk) with hlt | rfl
      · simpa [show k + 1 < 32 by omega, ← BitVec.getLsbD_eq_getElem] using hk'
      · simpa using hmsb
    · have h0 := congrArg (fun v : Word => v.getLsbD 0) h
      simp [crcBit, hmsb, crcPoly] at h0
  intro c d h
  have := hker (c ^^^ d) (by rw [crcBit_xor, h]; exact BitVec.xor_self)
  exact BitVec.xor_eq_zero_iff.1 this

/-- The period of `x` is longer than the largest distance of two bits of a message of 259 bytes: the words after 1, up
to that distance, are computed one after another, and none is 1. -/
theorem one_notMem_iterate_crcBit : (1 : Word) ∉ List.iterate crcBit (crcBit 1) 2071 := by decide +kernel

/-- Powers of `x` no more than that distance apart differ. -/
theorem crcBit_iterate_one_inj {m n : Nat} (hm : m < n + 2072) (hn : n < m + 2072)
    (h : crcBit^[m] 1 = crcBit^[n] 1) : m = n := by
  have hstay : ∀ {m n : Nat}, m < n + 2072 → crcBit^[m] 1 = crcBit^[n] 1 → m ≤ n := by
    intro m n hlt h
    by_contra hle
    refine one_notMem_iterate_crcBit (List.mem_iterate.2 ⟨m - n - 1, by omega, ?_⟩)
    rw [← Function.iterate_succ_apply, show (m - n - 1).succ = m - n by omega]
    exact (Function.iterate_cancel crcBit_injective h).symm
  exact Nat.le_antisymm (hstay hm h) (hstay hn h.symm)

theorem crcByte_zero_right (c : Word) : crcByte c 0 = crcBit^[8] c := by simp [crcByte]

theorem foldl_crcByte_replicate_zero (c : Word) (n : Nat) :
    (List.replicate n 0).foldl crcByte c = crcBit^[8 * n] c := by
  induction n generalizing c with
  | zero => rfl
  | succ n ih =>
    rw [List.replicate_succ, List.foldl_cons, ih, crcByte_zero_right, ← Function.iterate_add_apply, Nat.mul_succ]

/-- One bit of the register, as long as it does not leave it. -/
theorem crcBit_iterate_one {n : Nat} (hn : n < 32) : crcBit^[n] 1 = 1 <<< n :=
  crcBit_iterate_of_top_clear hn.le fun k hk => by simp; omega

/-- Bit `7 - j` of a byte enters the register `31 - j` bits above its end, and is then shifted eight times. -/
theorem crcByte_zero_left_bit {j : Nat} (hj : j < 8) : crcByte 0 ((1 : Byte) <<< (7 - j)) = crcBit^[39 - j] 1 := by
  have hin : (0 : Word) ^^^ (((1 : Byte) <<< (7 - j)).setWidth 32 <<< 24) = crcBit^[31 - j] 1 := by
    rw [crcBit_iterate_one (by omega)]
    interval_cases j <;> rfl
  rw [crcByte, hin, ← Function.iterate_add_apply, show 8 + (31 - j) = 39 - j by omega]

/-- The syndrome of a bit is a power of `x` (R149). -/
theorem synd_eq_iterate {len b : Nat} (hb : b < 8 * len) : synd len b = crcBit^[31 + 8 * len - b] 1 := by
  have hsplit : flipBit (List.replicate len 0) b = List.replicate (b / 8) 0 ++
      (1 : Byte) <<< (7 - b % 8) :: List.replicate (len - 1 - b / 8) 0 := by
    rw [flipBit, List.modify_eq_take_cons_drop (by simp; omega)]
    rw [List.take_replicate, List.drop_replicate, List.getElem_replicate, Nat.min_eq_left (by omega),
      Nat.add_comm (b / 8) 1, Nat.sub_add_eq]
    exact congrArg (fun x => _ ++ x :: _) BitVec.zero_xor
  rw [synd, crc0, hsplit, List.foldl_append, foldl_crcByte_replicate_zero, List.foldl_cons,
    foldl_crcByte_replicate_zero, Function.iterate_fixed crcBit_zero, crcByte_zero_left_bit (by omega),
    ← Function.iterate_add_apply]
  congr 1
  omega

theorem synd_ne_zero {len b : Nat} (hb : b < 8 * len) : synd len b ≠ 0 := by
  intro h
  rw [synd_eq_iterate hb, ← Function.iterate_fixed crcBit_zero (31 + 8 * len - b)] at h
  exact absurd (crcBit_injective.iterate _ h) (by decide)

/-- The syndromes of a message of up to 259 bytes are pairwise distinct (R150). -/
theorem synd_inj {len a b : Nat} (hlen : len ≤ 259) (ha : a < 8 * len) (hb : b < 8 * len)
    (h : synd len a = synd len b) : a = b := by
  rw [synd_eq_iterate ha, synd_eq_iterate hb] at h
  have := crcBit_iterate_one_inj (by omega) (by omega) h
  omega

/-! ## Inverted bits and the locator (R149) -/

theorem flipBit_eq_zipWith (m : List Byte) (b : Nat) :
    flipBit m b = List.zipWith (· ^^^ ·) m (flipBit (List.replicate m.length 0) b) := by
  refine List.ext_getElem? fun i => ?_
  simp only [flipBit, List.getElem?_zipWith, List.getElem?_modify, List.getElem?_replicate]
  by_cases hi : i < m.length
  · simp only [hi, List.getElem?_eq_getElem, if_true]
    by_cases he : b / 8 = i <;> simp [he]
  · simp [hi]

theorem checksum_flipBit (m : List Byte) (b : Nat) : checksum (flipBit m b) = checksum m ^^^ synd m.length b := by
  rw [flipBit_eq_zipWith, checksum_zipWith_xor (by simp), synd]

theorem flipBit_flipBit (m : List Byte) (b : Nat) : flipBit (flipBit m b) b = m := by
  rw [flipBit, flipBit, List.modify_modify_eq]
  have hid : (fun x : Byte => x ^^^ ((1 : Byte) <<< (7 - b % 8))) ∘
      (fun x => x ^^^ ((1 : Byte) <<< (7 - b % 8))) = id := funext fun x => by simp
  rw [hid, List.modify_id]

/-- A bit has the residual as its syndrome exactly where inverting it makes the residual 0. -/
theorem synd_eq_checksum_iff (m : List Byte) (b : Nat) :
    synd m.length b = checksum m ↔ checksum (flipBit m b) = 0 := by
  rw [checksum_flipBit, eq_comm]
  exact BitVec.xor_eq_zero_iff.symm

theorem locate_eq_none_iff (m : List Byte) :
    locate m.length (checksum m) = none ↔ ∀ k < 8 * m.length, checksum (flipBit m k) ≠ 0 := by
  simp [locate, synd_eq_checksum_iff]

theorem locate_eq_some_iff (m : List Byte) (b : Nat) :
    locate m.length (checksum m) = some b ↔
      b < 8 * m.length ∧ checksum (flipBit m b) = 0 ∧ ∀ k < b, checksum (flipBit m k) ≠ 0 := by
  simp [locate, List.find?_range_eq_some, synd_eq_checksum_iff, and_left_comm]

end Sys2Proof.Machine

/-! The line codes, symbol by symbol (spec 41_codec.md R151 to R157): what a coded symbol holds, and which byte a
received one stands for. -/

namespace Sys2Proof.Machine

open Sys2Proof Sys2Proof.Safety

/-! ## Sub-blocks (R153 to R156) -/

theorem rdAfter_eq {w half : Nat} (hw : w = 2 * half) (rd : Disparity) (code : BitVec w) :
    rdAfter rd code = if ones code = half then rd else rd.flip :=
  if_congr (by unfold ones; omega) rfl rfl

/-- The ones of an unbalanced sub-block: from RD- one more than half its bits, from RD+ one fewer. -/
def unbalancedOnes (half : Nat) : Disparity → Nat
  | .neg => half + 1
  | .pos => half - 1

/-- A sub-block is balanced, or unbalanced in the direction that the disparity before it asks for (R153). -/
abbrev Balances {w : Nat} (half : Nat) (rd : Disparity) (code : BitVec w) : Prop :=
  ones code = half ∨ ones code = unbalancedOnes half rd

/-- A balanced sub-block keeps the disparity, an unbalanced one changes it. -/
theorem Balances.rdAfter_cases {w half : Nat} {rd : Disparity} {code : BitVec w} (h : Balances half rd code)
    (hw : w = 2 * half) (hpos : 0 < half) :
    ones code = half ∧ rdAfter rd code = rd ∨
      ones code = unbalancedOnes half rd ∧ rdAfter rd code = rd.flip := by
  rw [rdAfter_eq hw]
  rcases h with h | h
  · exact .inl ⟨h, if_pos h⟩
  · exact .inr ⟨h, if_neg (by cases rd <;> simp only [unbalancedOnes] at h <;> omega)⟩

theorem balances_sixOf (rd : Disparity) (b : Byte) : Balances 3 rd (sixOf rd b) := by
  have hrows : ∀ x : BitVec 5, Balances 3 .neg (t6 x .neg) ∧ Balances 3 .pos (t6 x .pos) := by decide
  cases rd
  · exact (hrows _).1
  · exact (hrows _).2

theorem fourOf_eq (rd : Disparity) (b : Byte) :
    fourOf rd b = if usesA7 (b.extractLsb' 0 5) (b.extractLsb' 5 3) rd then column a7 rd
      else t4 (b.extractLsb' 5 3) rd := by
  unfold fourOf usesA7
  refine if_congr ?_ rfl rfl
  rw [Bool.and_eq_true, beq_iff_eq, ← BitVec.toNat_inj]
  refine and_congr_right fun _ => ?_
  cases rd <;> exact List.contains_iff_mem.symm

/-- The 4-bit code is that of the row of `y`, or `A7` where `y` is 7. -/
theorem fourOf_cases (rd : Disparity) (b : Byte) :
    fourOf rd b = column (fourRows.getD (b.extractLsb' 5 3).toNat (0, 0)) rd ∨
      (b.extractLsb' 5 3).toNat = 7 ∧ fourOf rd b = column altSeven rd := by
  unfold fourOf
  split_ifs with h
  · exact .inr ⟨h.1, rfl⟩
  · exact .inl rfl

theorem balances_fourOf (rd : Disparity) (b : Byte) : Balances 2 rd (fourOf rd b) := by
  have hrows : ∀ y : BitVec 3, Balances 2 .neg (t4 y .neg) ∧ Balances 2 .pos (t4 y .pos) := by decide
  have halt : Balances 2 .neg (column a7 .neg) ∧ Balances 2 .pos (column a7 .pos) := by decide
  rw [fourOf_eq]
  split <;> cases rd
  · exact halt.1
  · exact halt.2
  · exact (hrows _).1
  · exact (hrows _).2

/-- The `x` a 6-bit code decodes to is the one in whose row it stands (R156). -/
theorem decodeSix_eq_some_iff (c : BitVec 6) (x : BitVec 5) :
    decodeSix c = some x.toNat ↔ ∃ rd, c = t6 x rd := by
  have hrows : ∀ x : BitVec 5, decodeSix (t6 x .neg) = some x.toNat ∧ decodeSix (t6 x .pos) = some x.toNat := by
    decide
  constructor
  · intro h
    obtain ⟨hx, hrow, _⟩ := List.findIdx?_eq_some_iff_getElem.1 h
    have ht6 (rd : Disparity) : t6 x rd = column t6Table[x.toNat] rd := by
      rw [t6, List.getD_eq_getElem _ _ hx]
    rcases Bool.or_eq_true_iff.1 hrow with h1 | h2
    · exact ⟨.neg, by rw [ht6, ← eq_of_beq h1]; rfl⟩
    · exact ⟨.pos, by rw [ht6, ← eq_of_beq h2]; rfl⟩
  · rintro ⟨_ | _, rfl⟩
    · exact (hrows x).1
    · exact (hrows x).2

/-- The `y` a 4-bit code decodes to is the one in whose row it stands, or 7 for `A7` (R156). -/
theorem decodeFour_eq_some_iff (c : BitVec 4) (y : BitVec 3) :
    decodeFour c = some y.toNat ↔ ∃ rd, c = t4 y rd ∨ y.toNat = 7 ∧ c = column a7 rd := by
  have hrows : ∀ y : BitVec 3, decodeFour (t4 y .neg) = some y.toNat ∧ decodeFour (t4 y .pos) = some y.toNat := by
    decide
  have halt : decodeFour (column a7 .neg) = some 7 ∧ decodeFour (column a7 .pos) = some 7 := by decide
  have hcodes : ∀ (c : BitVec 4) (y : BitVec 3), decodeFour c = some y.toNat →
      (c = t4 y .neg ∨ y.toNat = 7 ∧ c = column a7 .neg) ∨ c = t4 y .pos ∨ y.toNat = 7 ∧ c = column a7 .pos := by
    decide
  constructor
  · intro h
    rcases hcodes c y h with h1 | h2
    · exact ⟨.neg, h1⟩
    · exact ⟨.pos, h2⟩
  · rintro ⟨_ | _, rfl | ⟨h7, rfl⟩⟩
    · exact (hrows y).1
    · rw [h7]; exact halt.1
    · exact (hrows y).2
    · rw [h7]; exact halt.2

theorem decodeSix_lt {c : BitVec 6} {x : Nat} (h : decodeSix c = some x) : x < 32 := by
  obtain ⟨hx, _⟩ := List.findIdx?_eq_some_iff_getElem.1 h
  exact hx

theorem decodeFour_lt {c : BitVec 4} {y : Nat} (h : decodeFour c = some y) : y < 8 := by
  have hall : ∀ c : BitVec 4, (decodeFour c).all (· < 8) = true := by decide
  simpa [h] using hall c

/-- The 6-bit codes in no row (R156). -/
theorem decodeSix_eq_none_iff : ∀ c : BitVec 6, decodeSix c = none ↔
    c ∈ ([0b000000, 0b000001, 0b000010, 0b000011, 0b000100, 0b001000, 0b001111, 0b010000, 0b011111, 0b100000,
      0b101111, 0b110000, 0b110111, 0b111011, 0b111100, 0b111101, 0b111110, 0b111111] : List (BitVec 6)) := by
  decide

/-- The 4-bit codes in no row (R156). -/
theorem decodeFour_eq_none_iff : ∀ c : BitVec 4, decodeFour c = none ↔ c ∈ ([0b0000, 0b1111] : List (BitVec 4)) := by
  decide

/-! ## Symbols -/

theorem bitsOf_injective {w : Nat} : Function.Injective (bitsOf (w := w)) := fun u v h => by
  rw [← ofBits_bitsOf u, h, ofBits_bitsOf]

theorem bitsOf_append {v w : Nat} (x : BitVec v) (y : BitVec w) : bitsOf (x ++ y) = bitsOf x ++ bitsOf y := by
  refine List.ext_getElem? fun j => ?_
  simp only [List.getElem?_append, bitsOf_length, bitsOf_getElem?, BitVec.getMsbD_append]
  by_cases hj : j < v
  · simp [hj, show ¬ v ≤ j by omega, show j < v + w by omega]
  · simp [hj, show v ≤ j by omega, show j - v < w ↔ j < v + w by omega]

/-- Ten bits are a 6-bit and a 4-bit code. -/
theorem exists_subBlocks {symbol : List Bool} (h : symbol.length = 10) :
    ∃ (c6 : BitVec 6) (c4 : BitVec 4), symbol = bitsOf c6 ++ bitsOf c4 :=
  ⟨ofBits 6 (symbol.take 6), ofBits 4 (symbol.drop 6), by
    rw [bitsOf_ofBits (by simp [h]), bitsOf_ofBits (by simp [h]), List.take_append_drop]⟩

/-- A coded symbol is the codes of its `x` and of its `y`, each of which carries the disparity on (R153). -/
theorem encodeSymbol_eq (rd : Disparity) (b : Byte) :
    encodeSymbol rd b = (bitsOf (sixOf rd b) ++ bitsOf (fourOf (rdAfter rd (sixOf rd b)) b),
      rdAfter (rdAfter rd (sixOf rd b)) (fourOf (rdAfter rd (sixOf rd b)) b)) := by
  rw [rdAfter_eq (half := 2) rfl, rdAfter_eq (half := 3) rfl, fourOf_eq]
  simp only [encodeSymbol, ite_not]
  rfl

/-- The ones of a symbol keep the disparity in step (R153). -/
theorem encodeSymbol_ones (rd : Disparity) (b : Byte) :
    (encodeSymbol rd b).1.count true = 5 ∧ (encodeSymbol rd b).2 = rd ∨
      (encodeSymbol rd b).1.count true = (match rd with | .neg => 6 | .pos => 4) ∧
        (encodeSymbol rd b).2 = rd.flip := by
  have hcount : (encodeSymbol rd b).1.count true =
      ones (sixOf rd b) + ones (fourOf (rdAfter rd (sixOf rd b)) b) := by
    rw [encodeSymbol_eq, List.count_append]
    rfl
  rw [hcount, encodeSymbol_eq]
  rcases (balances_sixOf rd b).rdAfter_cases rfl (by decide) with ⟨h6, hrd⟩ | ⟨h6, hrd⟩ <;> rw [hrd, h6]
  · rcases (balances_fourOf rd b).rdAfter_cases rfl (by decide) with ⟨h4, hrd'⟩ | ⟨h4, hrd'⟩ <;> rw [hrd', h4]
    · exact .inl ⟨rfl, rfl⟩
    · exact .inr ⟨by cases rd <;> rfl, rfl⟩
  · rcases (balances_fourOf rd.flip b).rdAfter_cases rfl (by decide) with ⟨h4, hrd'⟩ | ⟨h4, hrd'⟩ <;> rw [hrd', h4]
    · exact .inr ⟨by cases rd <;> rfl, rfl⟩
    · exact .inl ⟨by cases rd <;> rfl, by cases rd <;> rfl⟩

theorem append_eq_byte_iff {x y : Nat} (hx : x < 32) (hy : y < 8) (b : Byte) :
    BitVec.ofNat 3 y ++ BitVec.ofNat 5 x = b ↔ x = (b.extractLsb' 0 5).toNat ∧ y = (b.extractLsb' 5 3).toNat := by
  have hb := b.isLt
  rw [← BitVec.toNat_inj, BitVec.toNat_append, BitVec.extractLsb'_toNat, BitVec.extractLsb'_toNat,
    ← Nat.shiftLeft_add_eq_or_of_lt (BitVec.isLt _), Nat.shiftLeft_eq, Nat.shiftRight_eq_div_pow,
    Nat.shiftRight_eq_div_pow, BitVec.toNat_ofNat, BitVec.toNat_ofNat]
  omega

/-- A symbol is decoded one sub-block apart from the other (R156). -/
theorem decodeSymbol_append (c6 : BitVec 6) (c4 : BitVec 4) : decodeSymbol (bitsOf c6 ++ bitsOf c4) =
    (decodeSix c6).bind fun x => (decodeFour c4).map fun y => BitVec.ofNat 3 y ++ BitVec.ofNat 5 x := by
  have h6 : slice (bitsOf c6 ++ bitsOf c4) 0 6 = bitsOf c6 := by simp [slice]
  have h4 : slice (bitsOf c6 ++ bitsOf c4) 6 4 = bitsOf c4 := by simp [slice, List.take_of_length_le]
  rw [decodeSymbol, h6, h4, ofBits_bitsOf, ofBits_bitsOf]
  cases decodeSix c6 <;> cases decodeFour c4 <;> rfl

theorem decodeSymbol_eq_some_iff (c6 : BitVec 6) (c4 : BitVec 4) (b : Byte) :
    decodeSymbol (bitsOf c6 ++ bitsOf c4) = some b ↔
      decodeSix c6 = some (b.extractLsb' 0 5).toNat ∧ decodeFour c4 = some (b.extractLsb' 5 3).toNat := by
  rw [decodeSymbol_append]
  cases hx : decodeSix c6 with
  | none => simp
  | some x =>
    cases hy : decodeFour c4 with
    | none => simp
    | some y => simpa using append_eq_byte_iff (decodeSix_lt hx) (decodeFour_lt hy) b

theorem decodeSymbol_eq_none_iff (c6 : BitVec 6) (c4 : BitVec 4) :
    decodeSymbol (bitsOf c6 ++ bitsOf c4) = none ↔ decodeSix c6 = none ∨ decodeFour c4 = none := by
  rw [decodeSymbol_append]
  cases decodeSix c6 <;> simp

/-- The line decoder answers exactly the byte that a symbol stands for (R151, R156). -/
theorem lineDecode_eq_some_iff {codec : LineCode} {symbol : List Bool} (h : symbol.length = symbitsOf codec)
    (b : Byte) : lineDecode codec symbol = some b ↔ Stands codec symbol b := by
  cases codec with
  | identity =>
    show some (ofBits 8 symbol) = some b ↔ symbol = bitsOf b
    constructor
    · intro he
      rw [← Option.some.inj he]
      exact (bitsOf_ofBits h).symm
    · rintro rfl
      rw [ofBits_bitsOf]
  | eightTenB =>
    obtain ⟨c6, c4, rfl⟩ := exists_subBlocks h
    show decodeSymbol _ = _ ↔ _
    rw [decodeSymbol_eq_some_iff, decodeSix_eq_some_iff, decodeFour_eq_some_iff]
    constructor
    · rintro ⟨⟨rd, rfl⟩, rd', h4⟩
      exact ⟨rd, rd', c4, h4, rfl⟩
    · rintro ⟨rd, rd', four, h4, he⟩
      obtain ⟨he6, he4⟩ := List.append_inj he (by simp)
      rw [bitsOf_injective he6, bitsOf_injective he4]
      exact ⟨⟨rd, rfl⟩, rd', h4⟩

/-- A coded symbol stands for its byte (R153). -/
theorem stands_encodeSymbol (rd : Disparity) (b : Byte) : Stands .eightTenB (encodeSymbol rd b).1 b := by
  rw [encodeSymbol_eq]
  exact ⟨rd, rdAfter rd (sixOf rd b), _, fourOf_cases _ b, rfl⟩

theorem decodeSymbol_encodeSymbol (rd : Disparity) (b : Byte) : decodeSymbol (encodeSymbol rd b).1 = some b :=
  (lineDecode_eq_some_iff (codec := .eightTenB) (encodeSymbol_length rd b) b).2 (stands_encodeSymbol rd b)

/-- A byte appended is coded in the disparity that the bytes before it leave (R153). -/
theorem encodeSymbols_concat (rd : Disparity) (m : List Byte) (b : Byte) : encodeSymbols rd (m ++ [b]) =
    encodeSymbols rd m ++ (encodeSymbol (m.foldl (fun rd b => (encodeSymbol rd b).2) rd) b).1 := by
  induction m generalizing rd with
  | nil => simp [encodeSymbols]
  | cons a m ih => simp only [List.cons_append, encodeSymbols, ih, List.append_assoc, List.foldl_cons]

end Sys2Proof.Machine

/-! The frame decoder (spec 41_codec.md R159 to R164): which message received bits carry, how its residual decides,
and what `EV_RX_EOM` does with the answer. -/

namespace Sys2Proof.Machine

open Sys2Proof Sys2Proof.Safety
open Sys2Proof.Config (Build)

/-! ## Symbols one after another (R159) -/

section

variable {codec : LineCode} {size : Nat}

theorem decodeSymbols_succ (n : Nat) (bits : List Bool) : decodeSymbols codec size (n + 1) bits =
    (lineDecode codec (bits.take size)).bind fun b => (decodeSymbols codec size n (bits.drop size)).map (b :: ·) := by
  rw [decodeSymbols]
  cases lineDecode codec (bits.take size) <;> cases decodeSymbols codec size n (bits.drop size) <;> rfl

theorem slice_succ_mul (bits : List Bool) (j : Nat) :
    slice bits ((j + 1) * size) size = slice (bits.drop size) (j * size) size := by
  rw [slice, slice, List.drop_drop, Nat.add_one_mul, Nat.add_comm]

theorem slice_zero_mul (bits : List Bool) : slice bits (0 * size) size = bits.take size := by simp [slice]

/-- Symbols decode to the bytes that they decode to one by one. -/
theorem decodeSymbols_eq_some_iff {n : Nat} {bits : List Bool} {m : List Byte} :
    decodeSymbols codec size n bits = some m ↔
      m.length = n ∧ ∀ j b, m[j]? = some b → lineDecode codec (slice bits (j * size) size) = some b := by
  induction n generalizing bits m with
  | zero => cases m <;> simp [decodeSymbols]
  | succ n ih =>
    cases m with
    | nil =>
      rw [decodeSymbols_succ]
      cases lineDecode codec (bits.take size) <;> simp
    | cons a m =>
      have hcons : decodeSymbols codec size (n + 1) bits = some (a :: m) ↔
          lineDecode codec (bits.take size) = some a ∧ decodeSymbols codec size n (bits.drop size) = some m := by
        rw [decodeSymbols_succ]
        cases lineDecode codec (bits.take size) <;> simp [and_comm]
      rw [hcons, ih, ← slice_zero_mul bits]
      simp only [← slice_succ_mul, List.length_cons, Nat.add_right_cancel_iff]
      constructor
      · rintro ⟨h0, hlen, hrest⟩
        refine ⟨hlen, fun j b hj => ?_⟩
        cases j with
        | zero => rw [h0]; exact hj
        | succ j => exact hrest j b hj
      · rintro ⟨hlen, hall⟩
        exact ⟨hall 0 a rfl, hlen, fun j b hj => hall (j + 1) b hj⟩

/-- Symbols decode to nothing exactly where one of them does. -/
theorem decodeSymbols_eq_none_iff {n : Nat} {bits : List Bool} :
    decodeSymbols codec size n bits = none ↔ ∃ j < n, lineDecode codec (slice bits (j * size) size) = none := by
  induction n generalizing bits with
  | zero => simp [decodeSymbols]
  | succ n ih =>
    have hor : decodeSymbols codec size (n + 1) bits = none ↔
        lineDecode codec (bits.take size) = none ∨ decodeSymbols codec size n (bits.drop size) = none := by
      rw [decodeSymbols_succ]
      cases lineDecode codec (bits.take size) <;> simp
    rw [hor, ih, Nat.exists_lt_succ_left, slice_zero_mul]
    simp only [slice_succ_mul]

/-- A symbol in front of others is decoded first. -/
theorem decodeSymbols_symbol_append {n : Nat} {symbol bits : List Bool} {b : Byte} {m : List Byte}
    (hlen : symbol.length = size) (hb : lineDecode codec symbol = some b)
    (hm : decodeSymbols codec size n bits = some m) :
    decodeSymbols codec size (n + 1) (symbol ++ bits) = some (b :: m) := by
  rw [decodeSymbols_succ, ← hlen, List.take_left, List.drop_left, hb, hlen, hm]
  rfl

end

theorem decodeSymbols_bitString (m : List Byte) (rest : List Bool) :
    decodeSymbols .identity 8 m.length (bitString m ++ rest) = some m := by
  induction m with
  | nil => rfl
  | cons b m ih =>
    rw [bitString_cons, List.append_assoc]
    exact decodeSymbols_symbol_append (bitsOf_length b) (congrArg some (ofBits_bitsOf b)) ih

theorem decodeSymbols_encodeSymbols (rd : Disparity) (m : List Byte) (rest : List Bool) :
    decodeSymbols .eightTenB 10 m.length (encodeSymbols rd m ++ rest) = some m := by
  induction m generalizing rd with
  | nil => rfl
  | cons b m ih =>
    rw [encodeSymbols, List.append_assoc]
    exact decodeSymbols_symbol_append (encodeSymbol_length rd b) (decodeSymbol_encodeSymbol rd b) (ih _)

/-- Line-coded bytes decode to themselves, whatever follows them (R162). -/
theorem decodeSymbols_lineEncode (codec : LineCode) (m : List Byte) (rest : List Bool) :
    decodeSymbols codec (symbitsOf codec) m.length (lineEncode codec m ++ rest) = some m := by
  cases codec with
  | identity => exact decodeSymbols_bitString m rest
  | eightTenB => exact decodeSymbols_encodeSymbols .neg m rest

/-! ## The residual decides (R159) -/

section

variable {plen : Nat} {m p : List Byte}

theorem checkMessage_of_intact (h : checksum m = 0) : checkMessage plen m.length m = .ok (m.take plen) := by
  simp only [checkMessage, if_pos h]

theorem checkMessage_of_locate_none (h : checksum m ≠ 0) (hl : locate m.length (checksum m) = none) :
    checkMessage plen m.length m = .checksumFail := by
  simp only [checkMessage, if_neg h, hl]

theorem checkMessage_of_locate_some {k : Nat} (h : checksum m ≠ 0) (hl : locate m.length (checksum m) = some k) :
    checkMessage plen m.length m = .okCorrected ((flipBit m k).take plen) := by
  obtain ⟨_, hk, _⟩ := (locate_eq_some_iff m k).1 hl
  simp only [checkMessage, if_neg h, hl, if_pos hk]

/-- The ways a check can end: the recheck after a correction never fails (R160). -/
theorem checkMessage_cases (plen : Nat) (m : List Byte) :
    (checksum m = 0 ∧ checkMessage plen m.length m = .ok (m.take plen)) ∨
    (checksum m ≠ 0 ∧ locate m.length (checksum m) = none ∧ checkMessage plen m.length m = .checksumFail) ∨
    ∃ k, checksum m ≠ 0 ∧ locate m.length (checksum m) = some k ∧
      checkMessage plen m.length m = .okCorrected ((flipBit m k).take plen) := by
  by_cases h : checksum m = 0
  · exact .inl ⟨h, checkMessage_of_intact h⟩
  · cases hl : locate m.length (checksum m) with
    | none => exact .inr (.inl ⟨h, rfl, checkMessage_of_locate_none h hl⟩)
    | some k => exact .inr (.inr ⟨k, h, rfl, checkMessage_of_locate_some h hl⟩)

theorem checkMessage_eq_ok_iff :
    checkMessage plen m.length m = .ok p ↔ checksum m = 0 ∧ p = m.take plen := by
  rcases checkMessage_cases plen m with ⟨h, he⟩ | ⟨h, _, he⟩ | ⟨_, h, _, he⟩ <;> rw [he]
  · rw [DecodeResult.ok.injEq, eq_comm]
    exact (and_iff_right h).symm
  · exact iff_of_false nofun fun hp => h hp.1
  · exact iff_of_false nofun fun hp => h hp.1

theorem checkMessage_eq_checksumFail_iff : checkMessage plen m.length m = .checksumFail ↔
    checksum m ≠ 0 ∧ ∀ k < 8 * m.length, checksum (flipBit m k) ≠ 0 := by
  rw [← locate_eq_none_iff]
  rcases checkMessage_cases plen m with ⟨h, he⟩ | ⟨h, hl, he⟩ | ⟨_, _, hl, he⟩ <;> rw [he]
  · exact iff_of_false nofun fun hf => hf.1 h
  · exact iff_of_true rfl ⟨h, hl⟩
  · exact iff_of_false nofun fun hf => nomatch hl.symm.trans hf.2

theorem checkMessage_eq_okCorrected_iff : checkMessage plen m.length m = .okCorrected p ↔
    checksum m ≠ 0 ∧ ∃ k < 8 * m.length, (∀ k' < k, checksum (flipBit m k') ≠ 0) ∧ checksum (flipBit m k) = 0 ∧
      p = (flipBit m k).take plen := by
  have hlocate : (∃ k < 8 * m.length, (∀ k' < k, checksum (flipBit m k') ≠ 0) ∧ checksum (flipBit m k) = 0 ∧
      p = (flipBit m k).take plen) ↔ ∃ k, locate m.length (checksum m) = some k ∧ p = (flipBit m k).take plen :=
    exists_congr fun k => by rw [locate_eq_some_iff]; tauto
  rw [hlocate]
  rcases checkMessage_cases plen m with ⟨h, he⟩ | ⟨_, hl, he⟩ | ⟨k, h, hl, he⟩ <;> rw [he]
  · exact iff_of_false nofun fun hc => hc.1 h
  · exact iff_of_false nofun fun ⟨_, _, hk, _⟩ => nomatch hl.symm.trans hk
  · rw [DecodeResult.okCorrected.injEq, eq_comm, and_iff_right h]
    exact ⟨fun hp => ⟨k, hl, hp⟩, fun ⟨k', hl', hp⟩ => by rw [hp, Option.some.inj (hl.symm.trans hl')]⟩

theorem checkMessage_ne_linecodeFail : checkMessage plen m.length m ≠ .linecodeFail := by
  rcases checkMessage_cases plen m with ⟨_, he⟩ | ⟨_, _, he⟩ | ⟨_, _, _, he⟩ <;> simp [he]

theorem checkMessage_ne_eccFail : checkMessage plen m.length m ≠ .eccFail := by
  rcases checkMessage_cases plen m with ⟨_, he⟩ | ⟨_, _, he⟩ | ⟨_, _, _, he⟩ <;> simp [he]

end

/-! ## Received bits under a legal configuration (R159) -/

section

variable {b : Build} {c : CfgRegs} {bits : List Bool} {m : List Byte}

/-- Bits of a broken symbol length, or too few (R159). -/
theorem decodeFrame_of_bad_length (h : bits.length % c.symbits.toNat ≠ 0 ∨ bits.length < c.rxlen.toNat) :
    decodeFrame c bits = .linecodeFail := if_pos h

theorem decodeFrame_of_invalid (h : decodeSymbols c.codec c.symbits.toNat (c.plen.toNat + 4) bits = none) :
    decodeFrame c bits = .linecodeFail := by
  simp [decodeFrame, h]

/-- Whole symbols that decode are checked as the message of their bytes (R159). -/
theorem decodeFrame_of_symbols (hl : CfgLegal b c) (hwhole : bits.length % c.symbits.toNat = 0)
    (henough : c.rxlen.toNat ≤ bits.length)
    (hm : decodeSymbols c.codec c.symbits.toNat (c.plen.toNat + 4) bits = some m) :
    decodeFrame c bits = checkMessage c.plen.toNat m.length m := by
  rw [decodeFrame, if_neg (by omega), hm, decodeSymbols_length hm, ← hl.crcL_toNat]

/-- The symbols of enough bits are whole. -/
theorem symbolAt_length_of_legal (hl : CfgLegal b c) (henough : c.rxlen.toNat ≤ bits.length) {j : Nat}
    (hj : j < c.plen.toNat + 4) : (symbolAt c bits j).length = symbitsOf c.codec := by
  rw [hl.rxlen_toNat, rxlenOf, Nat.mul_comm, ← hl.symbits_toNat] at henough
  rw [symbolAt_length hj henough, hl.symbits_toNat]

/-- Bits that carry a message are checked as that message (R159). -/
theorem decodeFrame_of_carries (hl : CfgLegal b c) (hm : Carries c bits m) :
    decodeFrame c bits = checkMessage c.plen.toNat m.length m := by
  refine decodeFrame_of_symbols hl hm.whole hm.enough (decodeSymbols_eq_some_iff.2 ⟨hm.length, fun j v hj => ?_⟩)
  have hjm : j < m.length := (List.getElem?_eq_some_iff.1 hj).1
  exact (lineDecode_eq_some_iff (symbolAt_length_of_legal hl hm.enough (hm.length ▸ hjm)) v).2 (hm.stands j v hj)

/-- A line-coded message, and whole symbols after it, is checked as that message (R162). -/
theorem decodeFrame_lineEncode (hl : CfgLegal b c) (hm : m.length = c.plen.toNat + 4) {rest : List Bool}
    (hrest : rest.length % c.symbits.toNat = 0) :
    decodeFrame c (lineEncode c.codec m ++ rest) = checkMessage c.plen.toNat m.length m := by
  refine decodeFrame_of_symbols hl ?_ ?_ (by rw [hl.symbits_toNat, ← hm]; exact decodeSymbols_lineEncode _ _ _)
  · rw [List.length_append, lineEncode_length, ← hl.symbits_toNat, Nat.mul_add_mod, hrest]
  · rw [List.length_append, lineEncode_length, hm, hl.rxlen_toNat]
    exact Nat.le_add_right _ _

/-- `LinecodeFail`: a broken symbol length, too few bits, or a symbol that stands for no byte (R159). -/
theorem decodeFrame_eq_linecodeFail_iff (hl : CfgLegal b c) : decodeFrame c bits = .linecodeFail ↔
    bits.length % c.symbits.toNat ≠ 0 ∨ bits.length < c.rxlen.toNat ∨
      ∃ j < c.plen.toNat + 4, ∀ v, ¬ Stands c.codec (symbolAt c bits j) v := by
  by_cases hbad : bits.length % c.symbits.toNat ≠ 0 ∨ bits.length < c.rxlen.toNat
  · exact iff_of_true (decodeFrame_of_bad_length hbad) (hbad.imp_right .inl)
  · obtain ⟨hwhole, henough⟩ := not_or.1 hbad
    have hnone : decodeSymbols c.codec c.symbits.toNat (c.plen.toNat + 4) bits = none ↔
        ∃ j < c.plen.toNat + 4, ∀ v, ¬ Stands c.codec (symbolAt c bits j) v := by
      refine decodeSymbols_eq_none_iff.trans (exists_congr fun j => and_congr_right fun hj => ?_)
      rw [Option.eq_none_iff_forall_ne_some]
      exact forall_congr' fun v =>
        not_congr (lineDecode_eq_some_iff (symbolAt_length_of_legal hl (Nat.not_lt.1 henough) hj) v)
    rw [← hnone, or_iff_right hwhole, or_iff_right henough]
    refine ⟨fun h => ?_, decodeFrame_of_invalid⟩
    cases hm : decodeSymbols c.codec c.symbits.toNat (c.plen.toNat + 4) bits with
    | none => rfl
    | some m =>
      rw [decodeFrame_of_symbols hl (not_not.1 hwhole) (Nat.not_lt.1 henough) hm] at h
      exact absurd h checkMessage_ne_linecodeFail

/-- No bits are answered `EccFail` (R160). -/
theorem decodeFrame_ne_eccFail (hl : CfgLegal b c) : decodeFrame c bits ≠ .eccFail := by
  by_cases hbad : bits.length % c.symbits.toNat ≠ 0 ∨ bits.length < c.rxlen.toNat
  · rw [decodeFrame_of_bad_length hbad]
    nofun
  · obtain ⟨hwhole, henough⟩ := not_or.1 hbad
    cases hm : decodeSymbols c.codec c.symbits.toNat (c.plen.toNat + 4) bits with
    | none =>
      rw [decodeFrame_of_invalid hm]
      nofun
    | some m =>
      rw [decodeFrame_of_symbols hl (not_not.1 hwhole) (Nat.not_lt.1 henough) hm]
      exact checkMessage_ne_eccFail

end

/-! ## One inverted bit (R161) -/

/-- Bit `k` of a byte sequence's bits is a bit of byte `k / 8`. -/
theorem bitString_getElem? (bs : List Byte) (k : Nat) :
    (bitString bs)[k]? = bs[k / 8]?.map fun x => x.getMsbD (k % 8) := by
  induction bs generalizing k with
  | nil => rfl
  | cons b bs ih =>
    rw [bitString_cons, List.getElem?_append, bitsOf_length, bitsOf_getElem?]
    split
    next hk => simp [Nat.div_eq_of_lt hk, Nat.mod_eq_of_lt hk]
    next hk =>
      obtain ⟨d, rfl⟩ := Nat.exists_eq_add_of_le' (Nat.not_lt.1 hk)
      simp [ih]

/-- Inverting bit `k` of the bits inverts message bit `k` (R149). -/
theorem bitString_flipBit (m : List Byte) (k : Nat) : bitString (flipBit m k) = (bitString m).modify k not := by
  have hbit : ∀ (x : Byte) (i : Nat), i < 8 →
      (x ^^^ ((1 : Byte) <<< (7 - k % 8))).getMsbD i = if k % 8 = i then !x.getMsbD i else x.getMsbD i := by
    intro x i hi
    have hone : ((1 : Byte) <<< (7 - k % 8)).getMsbD i = decide (k % 8 = i) := by simp; omega
    rw [BitVec.getMsbD_xor, hone]
    by_cases hk : k % 8 = i <;> simp [hk]
  refine List.ext_getElem? fun i => ?_
  rw [bitString_getElem?, flipBit, List.getElem?_modify, List.getElem?_modify, bitString_getElem?]
  cases m[i / 8]? with
  | none => rfl
  | some x =>
    by_cases hd : k / 8 = i / 8
    · have hk : k = i ↔ k % 8 = i % 8 := by omega
      simp only [hd, if_true, hk, Option.map_eq_map, Option.map_some, hbit x _ (Nat.mod_lt i (by decide))]
    · simp [hd, show k ≠ i from fun h => hd (by rw [h])]

/-- A message with one inverted bit is corrected at that bit (R150, R161). -/
theorem checkMessage_flipBit {m : List Byte} {plen k : Nat} (hlen : m.length ≤ 259) (hk : k < 8 * m.length)
    (hm : checksum m = 0) :
    checkMessage plen (flipBit m k).length (flipBit m k) = .okCorrected (m.take plen) := by
  have hsynd : checksum (flipBit m k) = synd m.length k := by rw [checksum_flipBit, hm]; exact BitVec.zero_xor
  rw [checkMessage_eq_okCorrected_iff, flipBit_length]
  refine ⟨hsynd ▸ synd_ne_zero hk, k, hk, fun k' hk' he => ?_, by rw [flipBit_flipBit, hm], by rw [flipBit_flipBit]⟩
  rw [← synd_eq_checksum_iff, flipBit_length, hsynd] at he
  exact absurd (synd_inj hlen (by omega) hk he) (by omega)

/-! ## Reception (R164) -/

/-- An accepted `EV_RX_EOM` receives what its bits decode to. -/
theorem exec_evRxEom_ready {s : State} (hr : Ready s) (len : BitVec 16) (bits : List Bool) :
    exec (.evRxEom len bits) s = receive (decodeFrame s.cfg bits) s :=
  gated_ready (body := fun s => receive (decodeFrame s.cfg bits) s) hr.2 hr.1

theorem rxqDeliver_full {p : List Byte} {s : State} (h : fullP s.build s.rxq = true) :
    rxqDeliver p s = .next (count .rxDropFull s) := rxqDeliver_eq_next.2 (.inl ⟨h, rfl⟩)

/-- A ring with room takes a payload of a whole entry (42_ring.md R195). -/
theorem rxqDeliver_room {p : List Byte} {s : State} (hroom : fullP s.build s.rxq = false)
    (hlen : p.length = s.rxq.e.toNat) (hfit : slotBase s.rxq s.rxq.w + s.rxq.e.toNat ≤ s.build.ringBytes.toNat) :
    rxqDeliver p s = .next (rxqPublish (setMem .rxq (s.rxq.mem.writeBytes (slotBase s.rxq s.rxq.w) p) s)) := by
  have htake : p.take s.rxq.e.toNat = p := List.take_of_length_le hlen.le
  refine rxqDeliver_eq_next.2 (.inr ⟨hroom, ?_, ?_⟩)
  · rw [htake, hlen]
    exact hfit
  · rw [htake]
    rfl

/-- A decoded payload is counted as what its decoding answered, and delivered (R164). -/
theorem receive_decoded {res : DecodeResult} {p : List Byte} (h : res = .ok p ∨ res = .okCorrected p) (s : State) :
    receive res s = rxqDeliver p (count (if res = .ok p then .rxOk else .rxCorrected) s) := by
  rcases h with rfl | rfl
  · rw [if_pos rfl]; rfl
  · rw [if_neg nofun]; rfl

end Sys2Proof.Machine

namespace Sys2Proof.Proofs.Codec

open Sys2Proof Sys2Proof.Machine Sys2Proof.Safety

/-- Settles O52: the message is read back symbol by symbol, and its residual is 0. -/
theorem codecRoundTrip : Obligations.CodecRoundTrip := by
  intro b c p rest hl hp hrest
  have hlen : (message p).length = c.plen.toNat + 4 := by rw [message_length, hp]
  calc decodeFrame c (lineEncode c.codec (message p) ++ rest)
      = checkMessage c.plen.toNat (message p).length (message p) := decodeFrame_lineEncode hl hlen hrest
    _ = .ok ((message p).take c.plen.toNat) := checkMessage_of_intact (checksum_message p)
    _ = .ok p := by rw [message, List.take_left' hp]

/-- Settles O53: the residual is the syndrome of the inverted bit, which no other bit of the message has. -/
theorem singleFlipIsCorrected : Obligations.SingleFlipIsCorrected := by
  intro b c p k hl hc hp hk
  have hlen : (message p).length = c.plen.toNat + 4 := by rw [message_length, hp]
  have hshort : (message p).length ≤ 259 := by have := c.plen.isLt; omega
  have hinside : k < 8 * (message p).length := by
    rw [hl.rxlen_toNat, hc] at hk
    rwa [hlen]
  have hcoded : lineEncode c.codec (flipBit (message p) k) ++ [] = (bitString (message p)).modify k not := by
    rw [hc, List.append_nil, ← bitString_flipBit]; rfl
  calc decodeFrame c ((bitString (message p)).modify k not)
      = checkMessage c.plen.toNat (flipBit (message p) k).length (flipBit (message p) k) := by
        rw [← hcoded]; exact decodeFrame_lineEncode hl (by rw [flipBit_length, hlen]) (Nat.zero_mod _)
    _ = .okCorrected ((message p).take c.plen.toNat) := checkMessage_flipBit hshort hinside (checksum_message p)
    _ = .okCorrected p := by rw [message, List.take_left' hp]

/-- Settles O26: the gate and the counters; the decoder by the symbols it reads and the residual of their bytes. -/
theorem receiveDropsAreCounted : Obligations.ReceiveDropsAreCounted := by
  intro len bits s hr
  rw [exec_evRxEom_ready hr]
  refine ⟨fun h => ?_, fun h => ?_, fun p h hf => ?_, fun p h hf => ?_, fun hl => ⟨?_, fun m hm => ?_⟩⟩
  · rw [h]; rfl
  · rw [h]; rfl
  · rw [h]; exact rxqDeliver_full (s := count .rxOk s) hf
  · rw [h]; exact rxqDeliver_full (s := count .rxCorrected s) hf
  · exact decodeFrame_eq_linecodeFail_iff hl
  · rw [decodeFrame_of_carries hl hm]
    exact ⟨fun _ => checkMessage_eq_ok_iff, checkMessage_eq_checksumFail_iff,
      fun _ => checkMessage_eq_okCorrected_iff⟩

/-- Settles O27: the delivery writes the payload, a whole entry long, to the slot at the write cursor. -/
theorem receiveDelivers : Obligations.ReceiveDelivers := by
  intro len bits p s hs hr hd hroom
  have hlen : p.length = s.rxq.e.toNat := by
    rw [decodeFrame_payload_length hd, hs.ring.rxqShape.entry]
  have hw := hs.ring.rxqShape.wBound hr.1
  rw [exec_evRxEom_ready hr, receive_decoded hd]
  refine ⟨_, rxqDeliver_room hroom hlen (hs.ring.rxqShape.slot_fits hr.1 (hs.cfgLegal hr) hw), rfl, hlen,
    fun a => ?_, nextSlot_toNat s.rxq s.rxq.w hw, fun c => ?_⟩
  · have hread := Memory.read?_writeBytes p s.rxq.mem (slotBase s.rxq s.rxq.w) a
    rw [hlen] at hread
    exact hread
  · exact Counters.get_bump_eq_add s.cnt _ c

/-- Settles O50: the message's checksum shifts out of the register, and each step of the register is linear. -/
theorem zeroResidual : Obligations.ZeroResidual :=
  ⟨checksum_message, fun _ _ => checksum_zipWith_xor⟩

/-- Settles O51: a located bit's syndrome is the residual, so that the recheck after its inversion is 0. -/
theorem eccFailCannotOccur : Obligations.EccFailCannotOccur := fun _ _ _ hl => decodeFrame_ne_eccFail hl

/-- Settles O55: the tables of the model and of the statement are the same rows. -/
theorem eightTenBSymbols : Obligations.EightTenBSymbols := by
  refine ⟨fun rd b => ⟨congrArg Prod.fst (encodeSymbol_eq rd b), encodeSymbol_length rd b,
    decodeSymbol_encodeSymbol rd b, encodeSymbol_ones rd b⟩, ⟨rfl, fun m b => encodeSymbols_concat .neg m b⟩,
    fun symbol b h => lineDecode_eq_some_iff (codec := .eightTenB) h b, fun v => ?_, by decide⟩
  have hv : v = v.extractLsb' 4 6 ++ v.extractLsb' 0 4 := by
    rw [BitVec.extractLsb'_append_extractLsb'_eq_extractLsb' (show 4 = 0 + 4 from rfl)]
    exact BitVec.extractLsb'_eq_self.symm
  rw [← decodeSix_eq_none_iff, ← decodeFour_eq_none_iff, ← decodeSymbol_eq_none_iff, ← bitsOf_append, ← hv]

/-- Settles O56: the lengths of the frame's parts, and the packed frame's bits. -/
theorem frameLengthsAgree : Obligations.FrameLengthsAgree := by
  intro pre codec p
  have hlen : ∀ c, (lineEncode c (message p)).length = symbitsOf c * (p.length + 4) := fun c => by
    rw [lineEncode_length, message_length]
  refine ⟨rfl, rfl, ?_, ?_, pack_length _, take_bitString_pack _⟩
  · cases codec <;> exact hlen _
  · cases codec <;> exact frame_length pre _ p

/-- Settles O54: the computation on each of the eight messages. -/
theorem crcCheckValues : Obligations.CrcCheckValues := by
  unfold Obligations.CrcCheckValues
  decide +kernel

end Sys2Proof.Proofs.Codec

/-! The rings (spec 42_ring.md): what an operation does to the ring registers, what a ring then holds, the counts and
the views of the two sides, and the statements settled from these. -/

namespace Sys2Proof.Machine

open Sys2Proof Sys2Proof.Safety
open Sys2Proof.Config (Build)

/-! ## The rings' commands, once accepted (R187 to R193) -/

/-- A read of bytes that were all written answers them and takes no draw (10_state.md R58, 20_memory.md R62). -/
theorem memRead_written {k : MemKind} {base : Nat} {p : List Byte} {s : State}
    (hfit : base + p.length ≤ memSize s.build k) (hp : ∀ j < p.length, (memOf k s).read? (base + j) = p[j]?) :
    memRead k base p.length s = .next (p, s) := by
  refine memRead_eq_next.2 ⟨hfit, ?_⟩
  rw [Memory.readBytes_eq (memOf k s) p.length base s.draws p rfl hp]
  rfl

section
variable {s : State}

/-- A command of a configured core that is not faulted runs its own rule (30_encoding.md R85). -/
theorem exec_ready {i : Instr} {op : Opcode} {fa : State → State} {body : State → Result State}
    (hexec : ∀ s, exec i s = command op fa body s) (hr : Ready s) : exec i s = body s :=
  (hexec s).trans (command_ready hr.2 fun _ => hr.1)

theorem exec_txqReserve_ready (hr : Ready s) : exec .txqReserve s =
    if s.txqReserved then .next (raiseFault .txqDoubleReserve (opcodeCode .txqReserve) s)
    else if fullP s.build s.txq then .next (respond true 0 (count .txqFull s))
    else .next (respond false (s.txq.w.setWidth 32) (setTxqReserved true s)) :=
  (exec_ready (fun _ => rfl) hr).trans rfl

theorem exec_txqWr_ready (hr : Ready s) (off : BitVec 8) (data : Byte) : exec (.txqWr off data) s =
    if !s.txqReserved then .next (raiseFault .txqNoReservation (opcodeCode .txqWr) s)
    else if offsetInRange off s.txq.e then
      andThen (memWrite .txq (txqWrAddr off s) [data] s) fun s => .next (respond false 0 s)
    else .next (raiseFault .offsetRange (opcodeCode .txqWr) s) :=
  (exec_ready (fun _ => rfl) hr).trans rfl

theorem exec_txqCommit_ready (hr : Ready s) : exec .txqCommit s =
    if !s.txqReserved then .next (raiseFault .txqNoReservation (opcodeCode .txqCommit) s)
    else .next (respond false 0 (txqPublish (setTxqReserved false s))) :=
  (exec_ready (fun _ => rfl) hr).trans rfl

theorem exec_txqAbandon_ready (hr : Ready s) : exec .txqAbandon s =
    if !s.txqReserved then .next (raiseFault .txqNoReservation (opcodeCode .txqAbandon) s)
    else .next (respond false 0 (setTxqReserved false s)) :=
  (exec_ready (fun _ => rfl) hr).trans rfl

theorem exec_txqCount_ready (hr : Ready s) :
    exec .txqCount s = .next (respond false (BitVec.ofNat 32 (countP s.build s.txq)) s) :=
  (exec_ready (fun _ => rfl) hr).trans rfl

theorem exec_rxqPop_ready (hr : Ready s) : exec .rxqPop s =
    if emptyC s.build s.rxq then .next (respond true 0 (count .rxqEmpty (setRxqOwned false s)))
    else .next (respond false (s.rxq.r.setWidth 32) (rxqTake (setRxqOwned false s))) :=
  (exec_ready (fun _ => rfl) hr).trans rfl

theorem exec_rxqRd_ready (hr : Ready s) (off : BitVec 8) : exec (.rxqRd off) s =
    if !s.rxqOwned then .next (raiseFault .rxqNotOwned (opcodeCode .rxqRd) s)
    else if offsetInRange off s.rxq.e then
      andThen (memRead .rxq (rxqRdAddr off s) 1 s) fun r => .next (respond false ((r.1.headD 0).setWidth 32) r.2)
    else .next (raiseFault .offsetRange (opcodeCode .rxqRd) s) :=
  (exec_ready (fun _ => rfl) hr).trans rfl

theorem exec_rxqCount_ready (hr : Ready s) :
    exec .rxqCount s = .next (respond false (BitVec.ofNat 32 (countC s.build s.rxq)) s) :=
  (exec_ready (fun _ => rfl) hr).trans rfl

/-- A commit of a reserved slot ends the reservation and publishes the slot (R189). -/
theorem exec_txqCommit_reserved (hr : Ready s) (hres : s.txqReserved = true) :
    exec .txqCommit s = .next (respond false 0 (txqPublish (setTxqReserved false s))) :=
  (exec_txqCommit_ready hr).trans (if_neg (by simp [hres]))

/-- A pop of a ring the host sees as not empty owns the slot at the read cursor (R192). -/
theorem exec_rxqPop_take (hr : Ready s) (he : emptyC s.build s.rxq = false) :
    exec .rxqPop s = .next (respond false (s.rxq.r.setWidth 32) (rxqTake (setRxqOwned false s))) :=
  (exec_rxqPop_ready hr).trans (if_neg (by simp [he]))

end

/-! ## What an operation does to the rings (R197) -/

/-- The registers and the regions of both rings (10_state.md R31 to R34). -/
structure RingRegs where
  txq : Ring
  reserved : Bool
  rxq : Ring
  owned : Bool
  oslot : BitVec 16

/-- The rings' part of a state. -/
def ringsOf (s : State) : RingRegs := ⟨s.txq, s.txqReserved, s.rxq, s.rxqOwned, s.rxqOslot⟩

/-- What an operation but `CFG` can do to the rings, from a state to their registers after it: each case names the
operation, what it needs of the state, and the registers it writes. -/
inductive RingStep (s : State) : Instr → RingRegs → Prop where
  | kept (i : Instr) : RingStep s i (ringsOf s)
  | reserved : RingStep s .txqReserve { ringsOf s with reserved := true }
  | stored (off data : BitVec 8) (hres : s.txqReserved = true) (hoff : off.toNat < s.txq.e.toNat) :
      RingStep s (.txqWr off data)
        { ringsOf s with txq := { s.txq with mem := s.txq.mem.write (txqWrAddr off s) data } }
  | committed (hr : Ready s) (hres : s.txqReserved = true) :
      RingStep s .txqCommit
        { ringsOf s with txq := { s.txq with w := nextSlot s.txq s.txq.w }, reserved := false }
  | abandoned : RingStep s .txqAbandon { ringsOf s with reserved := false }
  | pulled (hc : countC s.build s.txq ≠ 0) :
      RingStep s .tick { ringsOf s with txq := { s.txq with r := nextSlot s.txq s.txq.r } }
  | disowned : RingStep s .rxqPop { ringsOf s with owned := false }
  | popped (hr : Ready s) (he : emptyC s.build s.rxq = false) :
      RingStep s .rxqPop
        { ringsOf s with rxq := { s.rxq with r := nextSlot s.rxq s.rxq.r }, owned := true, oslot := s.rxq.r }
  | delivered (len : BitVec 16) (bits : List Bool) (p : List Byte)
      (hd : decodeFrame s.cfg bits = .ok p ∨ decodeFrame s.cfg bits = .okCorrected p)
      (hroom : fullP s.build s.rxq = false) :
      RingStep s (.evRxEom len bits)
        { ringsOf s with
          rxq := { s.rxq with
            mem := s.rxq.mem.writeBytes (slotBase s.rxq s.rxq.w) (p.take s.rxq.e.toNat)
            w := nextSlot s.rxq s.rxq.w } }

/-- What the scheduler can do to TXQ: leave it alone, or take an entry where it sees one (R194). -/
def TxqKeptOrPulled (s t : State) : Prop :=
  t.txq = s.txq ∨ countC s.build s.txq ≠ 0 ∧ t.txq = { s.txq with r := nextSlot s.txq s.txq.r }

/-- Idle entry takes an entry of TXQ only where the scheduler sees one (40_scheduler.md R109). -/
theorem idleEntry_txq {s t : State} (h : idleEntry s = .next t) : TxqKeptOrPulled s t := by
  rcases idleEntry_eq_next.1 h with ⟨_, rfl⟩ | ⟨hc, _, hs⟩
  · exact .inl rfl
  · rw [startSend_frame hs]; exact .inr ⟨hc, rfl⟩

/-- So does an expiry's dispatch. -/
theorem dispatch_txq {s t : State} (h : dispatch s = .next t) : TxqKeptOrPulled s t := by
  rcases dispatch_eq_next.1 h with ⟨_, hs⟩ | ⟨_, hi⟩ | ⟨_, rfl⟩
  · rw [dispatchSending_frame hs]; exact .inl rfl
  · exact (idleEntry_txq hi :)
  · exact .inl rfl

/-- So does a tick. -/
theorem countdown_txq {s t : State} (h : countdown s = .next t) : TxqKeptOrPulled s t := by
  rcases countdown_eq_next.1 h with ⟨_, rfl⟩ | ⟨_, _, rfl⟩ | ⟨_, _, hd⟩
  · exact .inl rfl
  · exact .inl rfl
  · exact dispatch_txq (s := setTimer ⟨false, 0⟩ s) hd

theorem ringsOf_afterRetry (s : State) : ringsOf (afterRetry s) = ringsOf s := by simp [ringsOf]

/-- A reception leaves the rings alone, or stores the payload its bits decode to in a ring with room (R195). -/
theorem receive_rings {res : DecodeResult} {s t : State} (h : receive res s = .next t) :
    ringsOf t = ringsOf s ∨
      ∃ p, (res = .ok p ∨ res = .okCorrected p) ∧ fullP s.build s.rxq = false ∧
        ringsOf t = { ringsOf s with
          rxq := { s.rxq with
            mem := s.rxq.mem.writeBytes (slotBase s.rxq s.rxq.w) (p.take s.rxq.e.toNat)
            w := nextSlot s.rxq s.rxq.w } } := by
  cases res with
  | linecodeFail | checksumFail | eccFail => cases h; exact .inl rfl
  | ok p | okCorrected p =>
    rcases rxqDeliver_eq_next.1 h with ⟨_, rfl⟩ | ⟨hroom, _, rfl⟩
    · exact .inl rfl
    · exact .inr ⟨p, by simp, hroom, rfl⟩

/-- What an accepted operation does to the rings. -/
theorem acts_rings {i : Instr} {s t : State} (hcfg : ∀ ident n plen codec, i ≠ .cfg ident n plen codec)
    (h : Acts i s t) : RingStep s i (ringsOf t) := by
  cases i with
  | cfg => exact absurd rfl (hcfg _ _ _ _)
  | txqReserve =>
    obtain ⟨_, _, ⟨_, rfl⟩ | ⟨_, rfl⟩⟩ := h
    · exact .kept _
    · exact .reserved
  | txqWr off data => obtain ⟨_, hres, hoff, _, rfl⟩ := h; exact .stored off data hres hoff
  | txqCommit => obtain ⟨hr, hres, rfl⟩ := h; exact .committed hr hres
  | txqAbandon => obtain ⟨_, _, rfl⟩ := h; exact .abandoned
  | rxqPop =>
    obtain ⟨hr, ⟨_, rfl⟩ | ⟨he, rfl⟩⟩ := h
    · exact .disowned
    · exact .popped hr he
  | evRxEom len bits =>
    obtain ⟨_, hrec⟩ := h
    rcases receive_rings hrec with hk | ⟨p, hd, hroom, hq⟩
    · rw [hk]; exact .kept _
    · rw [hq]; exact .delivered len bits p hd hroom
  | tick =>
    obtain ⟨_, ht⟩ := h
    have hrest : ringsOf t = { ringsOf s with txq := t.txq } := by
      rw [← ringsOf_afterRetry s, countdown_frame ht]; rfl
    have htxq := countdown_txq ht
    rw [TxqKeptOrPulled, afterRetry_build, afterRetry_txq] at htxq
    rcases htxq with hk | ⟨hc, hq⟩
    · rw [hrest, hk]; exact .kept _
    · rw [hrest, hq]; exact .pulled hc
  | send =>
    obtain ⟨_, ⟨rfl, _⟩ | ⟨_, _, _, u, hu, rfl⟩⟩ := h
    · exact .kept _
    · rw [startSend_frame hu]; exact .kept _
  | nop => cases h; exact .kept _
  | stageWr | rdcsr => obtain ⟨_, _, _, rfl⟩ := h; exact .kept _
  | rxqRd => obtain ⟨_, _, _, _, rfl⟩ := h; exact .kept _
  | txqCount | rxqCount | clrcnt | evTxEmpty | evTxReady | evTxError => obtain ⟨_, rfl⟩ := h; exact .kept _

/-- The same of every operation, whichever way it ends. -/
theorem exec_rings {i : Instr} {s t : State} (hcfg : ∀ ident n plen codec, i ≠ .cfg ident n plen codec)
    (h : exec i s = .next t) : RingStep s i (ringsOf t) := by
  rcases exec_acts_or_frame h with ha | ht
  · exact acts_rings hcfg ha
  · rw [ht]; exact .kept _

/-- Each ring register has one writer (R197): of the cases that write it, all name its operation. -/
theorem RingStep.roles {i : Instr} {s : State} {r : RingRegs} (h : RingStep s i r) :
    (r.txq.w ≠ s.txq.w → i = .txqCommit) ∧
    (r.reserved ≠ s.txqReserved → i = .txqReserve ∨ i = .txqCommit ∨ i = .txqAbandon) ∧
    (r.txq.mem ≠ s.txq.mem → ∃ off data, i = .txqWr off data) ∧
    (r.txq.r ≠ s.txq.r → i = .tick) ∧
    (r.rxq.w ≠ s.rxq.w → ∃ len bits, i = .evRxEom len bits) ∧
    (r.rxq.mem ≠ s.rxq.mem → ∃ len bits, i = .evRxEom len bits) ∧
    (r.rxq.r ≠ s.rxq.r → i = .rxqPop) ∧
    (r.owned ≠ s.rxqOwned → i = .rxqPop) ∧
    (r.oslot ≠ s.rxqOslot → i = .rxqPop) ∧
    r.txq = { s.txq with mem := r.txq.mem, w := r.txq.w, r := r.txq.r } ∧
    r.rxq = { s.rxq with mem := r.rxq.mem, w := r.rxq.w, r := r.rxq.r } := by
  cases h <;> simp [ringsOf]

end Sys2Proof.Machine

namespace Sys2Proof.Safety

open Sys2Proof Sys2Proof.Machine
open Sys2Proof.Config (Build)

/-! ## What a ring holds after an operation (R184) -/

/-- No byte stands in two slots (20_memory.md R66). -/
theorem slot_eq_of_address_eq {e slot x j k : Nat} (hj : j < e) (hk : k < e) (h : slot * e + j = x * e + k) :
    slot = x := by
  have hdiv := congrArg (· / e) h
  simpa [Nat.mul_comm _ e, Nat.mul_add_div (Nat.zero_lt_of_lt hj), Nat.div_eq_of_lt hj, Nat.div_eq_of_lt hk] using hdiv

/-- A byte stored in the slot at the write cursor changes no committed entry (R184, R188). -/
theorem entries_write {b : Build} {q : Ring} (h : RingOk b q) {off : Nat} (hoff : off < q.e.toNat) (v : Byte) :
    entries { q with mem := q.mem.write (slotBase q q.w + off) v } = entries q := by
  refine List.map_congr_left fun i hi => List.map_congr_left fun j hj => ?_
  have hslot := h.slot_ne_write (List.mem_range.1 hi)
  exact (Memory.read?_write _ _ _ v).trans
    (if_neg fun ha => hslot (slot_eq_of_address_eq (List.mem_range.1 hj) hoff ha))

end Sys2Proof.Safety

namespace Sys2Proof.Machine

open Sys2Proof Sys2Proof.Safety
open Sys2Proof.Config (Build)

/-- Apart from a commit, an operation leaves the committed entries of TXQ as they are or takes the oldest, which only
the tick does (R184, R194). -/
theorem RingStep.txq_entries {i : Instr} {s : State} {r : RingRegs} (h : RingStep s i r) (hok : RingOk s.build s.txq)
    (hi : ¬(i = .txqCommit ∧ s.txqReserved = true ∧ s.fault.faulted = false)) :
    entries r.txq = entries s.txq ∨ i = .tick ∧ entries s.txq = slotBytes s.txq s.txq.r.toNat :: entries r.txq := by
  cases h with
  | kept | reserved | abandoned | disowned | popped | delivered => exact .inl rfl
  | stored off data _ hoff => exact .inl (entries_write hok hoff data)
  | committed hr hres => exact absurd ⟨rfl, hres, hr.2⟩ hi
  | pulled hc => exact .inr ⟨rfl, hok.entries_take hc⟩

/-- Apart from a pop that finds an entry, an operation leaves the committed entries of RXQ as they are or adds a
decoded payload, which only a reception does (R184, R195). -/
theorem RingStep.rxq_entries {i : Instr} {s : State} {r : RingRegs} (h : RingStep s i r) (hok : RingOk s.build s.rxq)
    (he : s.rxq.e = s.cfg.plen) (hi : ¬(i = .rxqPop ∧ emptyC s.build s.rxq = false ∧ s.fault.faulted = false)) :
    entries r.rxq = entries s.rxq ∨ ∃ len bits p, i = .evRxEom len bits ∧
      (decodeFrame s.cfg bits = .ok p ∨ decodeFrame s.cfg bits = .okCorrected p) ∧
      entries r.rxq = entries s.rxq ++ [p.map some] := by
  cases h with
  | kept | reserved | stored | committed | abandoned | pulled | disowned => exact .inl rfl
  | popped hr hempty => exact absurd ⟨rfl, hempty, hr.2⟩ hi
  | delivered len bits p hd hroom =>
    have hlen : p.length = s.rxq.e.toNat := by rw [decodeFrame_payload_length hd, he]
    rw [← hlen, List.take_length]
    exact .inr ⟨len, bits, p, rfl, hd, entries_deliver hok hroom hlen⟩

/-! ## Counts (R181 to R185, R198) -/

/-- A count is the remainder of the cursors' difference (R181, 00_scope.md R12). -/
theorem cursorDist_cast {n x y : BitVec 16} (hn : 0 < n.toNat) :
    (cursorDist n x y : Int) = ((x.toNat : Int) - (y.toNat : Int)) % (n.toNat : Int) :=
  Int.toNat_of_nonneg (Int.emod_nonneg _ (by omega))

theorem cursorDist_lt {n x y : BitVec 16} (hn : 0 < n.toNat) : cursorDist n x y < n.toNat := by
  have hlt := Int.emod_lt_of_pos ((x.toNat : Int) - (y.toNat : Int)) (Int.natCast_pos.2 hn)
  rw [← cursorDist_cast hn] at hlt
  exact Int.ofNat_lt.1 hlt

/-- A count fits the response: a word answers it whole (R181). -/
theorem count_word_facts {n x y : BitVec 16} (hn : 0 < n.toNat) :
    ((BitVec.ofNat 32 (cursorDist n x y)).toNat : Int) = ((x.toNat : Int) - (y.toNat : Int)) % (n.toNat : Int) ∧
      (BitVec.ofNat 32 (cursorDist n x y)).toNat < n.toNat := by
  have hlt := cursorDist_lt (x := x) (y := y) hn
  have := n.isLt
  rw [BitVec.toNat_ofNat, Nat.mod_eq_of_lt (by omega)]
  exact ⟨cursorDist_cast hn, hlt⟩

/-- The producer sees the ring full where the slot after its cursor is the read cursor it sees (R185). -/
theorem fullP_eq_true_iff (b : Build) {q : Ring} (hw : q.w.toNat < q.n.toNat) :
    fullP b q = true ↔ (q.w.toNat + 1) % q.n.toNat = (readView b q).toNat := by
  rw [fullP, beq_iff_eq, ← BitVec.toNat_inj, nextSlot_toNat q q.w hw]

namespace RingOk

variable {b : Build} {q : Ring}

theorem slots_pos (h : RingOk b q) : 0 < q.n.toNat := Nat.zero_lt_of_lt h.rBound

/-- In a `SYNC` build the producer sees the ring full exactly at its capacity (R183). -/
theorem fullP_iff_of_sync (h : RingOk b q) (hm : b.cdcMode = .sync) :
    fullP b q = true ↔ ringCount q = capacity q := by
  have hview : countP b q = ringCount q := by simp [countP, ringCount, readView, hm]
  rw [h.fullP_iff, hview, capacity]

/-- In a `SYNC` build the consumer sees the ring empty exactly at count 0 (R183). -/
theorem emptyC_iff_of_sync (h : RingOk b q) (hm : b.cdcMode = .sync) : emptyC b q = true ↔ ringCount q = 0 := by
  have hview : countC b q = ringCount q := by simp [countC, ringCount, writeView, hm]
  rw [h.emptyC_iff, hview]

/-- Where the producer sees room, the cursor after the write cursor is not the read cursor (R185, R198 item 4). -/
theorem next_write_ne_read (h : RingOk b q) (hf : fullP b q = false) :
    (q.w.toNat + 1) % q.n.toNat ≠ q.r.toNat := by
  have hroom := h.room hf q.r (by simp [readHistory])
  have hr := h.rBound
  rw [← nextSlot_toNat q q.w h.wBound, nextSlot_eq h.wBound]
  rw [cursorDist_eq h.wBound hr] at hroom
  split_ifs at hroom ⊢ <;> omega

end RingOk

/-! ## The geometry a `CFG` gives (R180, R201) -/

/-- `N` in a `SYNC` build: as many slots as the region holds. -/
theorem ringCreate_slots_sync {b : Build} {e : BitVec 8} (h : 2 ≤ b.ringBytes.toNat / e.toNat)
    (hm : b.cdcMode = .sync) (q : Ring) : (ringCreate b e q).n.toNat = b.ringBytes.toNat / e.toNat := by
  rw [ringCreate_n_toNat h, slotsOf, hm]

/-- `N` in a `GRAY` build: the largest power of two that is no larger. -/
theorem ringCreate_slots_gray {b : Build} {e : BitVec 8} (h : 2 ≤ b.ringBytes.toNat / e.toNat)
    (hm : b.cdcMode = .gray) (q : Ring) :
    (∃ k, (ringCreate b e q).n.toNat = 2 ^ k) ∧ (ringCreate b e q).n.toNat ≤ b.ringBytes.toNat / e.toNat ∧
      b.ringBytes.toNat / e.toNat < 2 * (ringCreate b e q).n.toNat := by
  have hn : (ringCreate b e q).n.toNat = 2 ^ Nat.log2 (b.ringBytes.toNat / e.toNat) := by
    rw [ringCreate_n_toNat h, slotsOf, hm]
  have hlt : b.ringBytes.toNat / e.toNat < 2 ^ (Nat.log2 (b.ringBytes.toNat / e.toNat) + 1) := Nat.lt_log2_self
  rw [Nat.pow_succ, Nat.mul_comm] at hlt
  rw [hn]
  exact ⟨⟨_, rfl⟩, Nat.log2_self_le (by omega), hlt⟩

/-! ## The Gray code (R201) -/

/-- `bin_to_gray` undoes `gray_to_bin`: on the finitely many values a left inverse is a right inverse. -/
theorem binToGray_grayToBin (v : BitVec 16) : binToGray (grayToBin v) = v :=
  Function.LeftInverse.rightInverse_of_card_le grayToBin_binToGray (Nat.le_refl _) v

theorem binToGray_getLsbD (v : BitVec 16) (k : Nat) :
    (binToGray v).getLsbD k = (v.getLsbD k ^^ v.getLsbD (k + 1)) := by
  rw [binToGray, BitVec.getLsbD_xor, BitVec.getLsbD_ushiftRight, Nat.add_comm 1 k]

/-- Each bit of `gray_to_bin` is the bit above it with the code's own bit added. -/
theorem grayToBin_getLsbD (v : BitVec 16) (k : Nat) :
    (grayToBin v).getLsbD k = ((grayToBin v).getLsbD (k + 1) ^^ v.getLsbD k) := by
  have h := binToGray_getLsbD (grayToBin v) k
  rw [binToGray_grayToBin] at h
  rw [h, Bool.xor_comm ((grayToBin v).getLsbD k), ← Bool.xor_assoc, Bool.xor_self, Bool.false_xor]

theorem binToGray_xor (u v : BitVec 16) : binToGray u ^^^ binToGray v = binToGray (u ^^^ v) := by
  unfold binToGray
  rw [BitVec.ushiftRight_xor_distrib]
  ac_rfl

/-- The code of a run of ones is its top bit. -/
theorem binToGray_ones {j : Nat} (hj : j < 16) :
    binToGray (BitVec.ofNat 16 (2 ^ (j + 1) - 1)) = BitVec.twoPow 16 j := by
  revert j
  decide

/-- Counting up by one inverts a run of low bits. -/
theorem exists_xor_succ_eq_ones (v : Nat) : ∃ j, v ^^^ (v + 1) = 2 ^ (j + 1) - 1 := by
  induction v using Nat.binaryRec with
  | zero => exact ⟨0, rfl⟩
  | bit odd u ih =>
    cases odd with
    | false =>
      refine ⟨0, ?_⟩
      have hsucc : Nat.bit false u + 1 = Nat.bit true u := rfl
      rw [hsucc, Nat.xor_bit, Nat.xor_self]
      rfl
    | true =>
      obtain ⟨j, hj⟩ := ih
      refine ⟨j + 1, ?_⟩
      have hsucc : Nat.bit true u + 1 = Nat.bit false (u + 1) := by
        rw [Nat.bit_true_apply, Nat.bit_false_apply]; omega
      have hpos := Nat.two_pow_pos (j + 1)
      rw [hsucc, Nat.xor_bit, hj, Nat.bit_val, Nat.pow_succ 2 (j + 1)]
      simp only [Bool.bne_false, Bool.toNat_true]
      omega

/-- From one slot of a power-of-two ring to the next, the wrap included, the cursor's changed bits are a run of low
ones. -/
theorem exists_xor_next_eq_ones {k v : Nat} (hk : 1 ≤ k) (hv : v < 2 ^ k) :
    ∃ j < k, v ^^^ (v + 1) % 2 ^ k = 2 ^ (j + 1) - 1 := by
  rcases Nat.lt_or_eq_of_le (show v + 1 ≤ 2 ^ k from hv) with hlt | hwrap
  · obtain ⟨j, hj⟩ := exists_xor_succ_eq_ones v
    rw [Nat.mod_eq_of_lt hlt]
    refine ⟨j, ?_, hj⟩
    have hbound := Nat.xor_lt_two_pow hv hlt
    rw [hj] at hbound
    have : 2 ^ (j + 1) ≤ 2 ^ k := by omega
    exact (Nat.pow_le_pow_iff_right (by decide)).1 this
  · refine ⟨k - 1, by omega, ?_⟩
    rw [hwrap, Nat.mod_self, Nat.xor_zero, Nat.sub_add_cancel hk]
    omega

/-! ## Shifting the chains (R200, R202) -/

theorem shiftChain_length (v : BitVec 16) (c : List (BitVec 16)) : (shiftChain v c).length = c.length := by
  simp [shiftChain]

theorem shiftChain_iterate_length (v : BitVec 16) (c : List (BitVec 16)) (k : Nat) :
    ((shiftChain v)^[k] c).length = c.length := by
  induction k with
  | zero => rfl
  | succ k ih => rw [Function.iterate_succ_apply', shiftChain_length, ih]

/-- After `k` shifts of one cursor value, the first `k` registers hold its code and the others what the chain held `k`
registers before them (R200). -/
theorem shiftChain_iterate_getElem? (v : BitVec 16) (chain : List (BitVec 16)) (k : Nat) :
    ∀ j < chain.length, ((shiftChain v)^[k] chain)[j]? = if j < k then some (binToGray v) else chain[j - k]? := by
  induction k with
  | zero => intro j _; rfl
  | succ k ih =>
    intro j hj
    rw [Function.iterate_succ_apply', shiftChain, List.getElem?_take, shiftChain_iterate_length, if_pos hj]
    cases j with
    | zero => rfl
    | succ j =>
      rw [List.getElem?_cons_succ, ih j (by omega), Nat.add_sub_add_right]
      simp only [Nat.add_lt_add_iff_right]

section
variable {b : Build} {v : BitVec 16} {chain : List (BitVec 16)}

/-- Before `SYNC_STAGES` shifts the end of a chain is what the chain held that many registers before it (R200). -/
theorem chainEnd_before {k : Nat} (hl : chain.length = b.syncStages.toNat) (hk : k < b.syncStages.toNat) :
    some (chainEnd b ((shiftChain v)^[k] chain)) = chain[b.syncStages.toNat - 1 - k]? := by
  have hj := shiftChain_iterate_getElem? v chain k (b.syncStages.toNat - 1) (by omega)
  rw [if_neg (by omega)] at hj
  rw [chainEnd, List.getD_eq_getElem?_getD, hj, List.getElem?_eq_getElem (by omega), Option.getD_some]

/-- After `SYNC_STAGES` shifts the end of a chain is the cursor's code (R200). -/
theorem chainEnd_after (hl : chain.length = b.syncStages.toNat) (hpos : 0 < b.syncStages.toNat) :
    chainEnd b ((shiftChain v)^[b.syncStages.toNat] chain) = binToGray v := by
  have hj := shiftChain_iterate_getElem? v chain b.syncStages.toNat (b.syncStages.toNat - 1) (by omega)
  rw [if_pos (by omega)] at hj
  rw [chainEnd, List.getD_eq_getElem?_getD, hj, Option.getD_some]

end

/-- Shifts move a ring's chains alone, each with its own cursor. -/
theorem shiftRing_iterate (q : Ring) (k : Nat) :
    shiftRing^[k] q = { q with rsync := (shiftChain q.r)^[k] q.rsync, wsync := (shiftChain q.w)^[k] q.wsync } := by
  induction k with
  | zero => rfl
  | succ k ih =>
    rw [Function.iterate_succ_apply', ih, Function.iterate_succ_apply', Function.iterate_succ_apply']
    rfl

/-- In a `GRAY` build both rings shift. -/
theorem syncShift_iterate_rings {s : State} (hm : s.build.cdcMode = .gray) (k : Nat) :
    (syncShift^[k] s).build = s.build ∧ (syncShift^[k] s).txq = shiftRing^[k] s.txq ∧
      (syncShift^[k] s).rxq = shiftRing^[k] s.rxq := by
  induction k with
  | zero => exact ⟨rfl, rfl, rfl⟩
  | succ k ih =>
    obtain ⟨hb, ht, hr⟩ := ih
    have hshift : syncShift (syncShift^[k] s) = setRxq (shiftRing (syncShift^[k] s).rxq)
        (setTxq (shiftRing (syncShift^[k] s).txq) (syncShift^[k] s)) := by
      rw [syncShift, hb, hm]
    simp only [Function.iterate_succ_apply', hshift, ← ht, ← hr]
    exact ⟨hb, rfl, rfl⟩

section
variable {b : Build} {q : Ring} (hm : b.cdcMode = .gray) (hr : q.rsync.length = b.syncStages.toNat)
  (hw : q.wsync.length = b.syncStages.toNat)
include hm hr hw

/-- Before `SYNC_STAGES` shifts each side sees what the chain held that many registers before its end (R200). -/
theorem views_before {k : Nat} (hk : k < b.syncStages.toNat) :
    some (readView b (shiftRing^[k] q)) = (q.rsync[b.syncStages.toNat - 1 - k]?).map grayToBin ∧
      some (writeView b (shiftRing^[k] q)) = (q.wsync[b.syncStages.toNat - 1 - k]?).map grayToBin := by
  rw [shiftRing_iterate, ← chainEnd_before (v := q.r) hr hk, ← chainEnd_before (v := q.w) hw hk]
  simp [readView, writeView, hm]

/-- After `SYNC_STAGES` shifts each side sees the other side's cursor (R202). -/
theorem views_after (hpos : 0 < b.syncStages.toNat) :
    readView b (shiftRing^[b.syncStages.toNat] q) = q.r ∧ writeView b (shiftRing^[b.syncStages.toNat] q) = q.w := by
  rw [shiftRing_iterate]
  simp only [readView, writeView, hm, chainEnd_after hr hpos, chainEnd_after hw hpos, grayToBin_binToGray, and_self]

/-- After `SYNC_STAGES` shifts both counts are the count of the cursors (R202). -/
theorem counts_after (hpos : 0 < b.syncStages.toNat) :
    countP b (shiftRing^[b.syncStages.toNat] q) = ringCount q ∧
      countC b (shiftRing^[b.syncStages.toNat] q) = ringCount q := by
  obtain ⟨hread, hwrite⟩ := views_after hm hr hw hpos
  rw [countP, countC, hread, hwrite, shiftRing_iterate]
  exact ⟨rfl, rfl⟩

end

end Sys2Proof.Machine

namespace Sys2Proof.Safety

open Sys2Proof Sys2Proof.Machine

/-- The slot the host owns is one of RXQ's (R198 item 5). -/
theorem Inv.ownedSlot_lt {s : State} (hs : Inv s) (ho : s.rxqOwned = true) : s.rxqOslot.toNat < s.rxq.n.toNat := by
  obtain ⟨hc, hslot⟩ := hs.ring.owned ho
  rw [hslot]
  exact cursorDist_lt (hs.rxqOk hc).slots_pos

end Sys2Proof.Safety

namespace Sys2Proof.Proofs.Rings

open Sys2Proof Sys2Proof.Machine Sys2Proof.Safety

/-- Settles O48: a commit adds the reserved slot at the end, and of the other operations only the tick takes an entry,
the oldest. -/
theorem txqIsAQueue : Obligations.TxqIsAQueue := by
  intro i s t hs hc hcfg h
  have hok := hs.txqOk hc
  by_cases hi : i = .txqCommit ∧ s.txqReserved = true ∧ s.fault.faulted = false
  · obtain ⟨rfl, hres, hf⟩ := id hi
    rw [exec_txqCommit_reserved ⟨hc, hf⟩ hres] at h
    cases h
    exact ⟨[], [slotBytes s.txq s.txq.w.toNat], (hok.entries_publish (hs.ring.reserved hres).2).symm, by simp,
      by simp, (if_pos hi).symm⟩
  · rcases (exec_rings hcfg h).txq_entries hok hi with hkept | ⟨htick, htaken⟩
    · exact ⟨[], [], by rw [List.append_nil]; exact hkept.symm, by simp, by simp, (if_neg hi).symm⟩
    · exact ⟨[slotBytes s.txq s.txq.r.toNat], [], by rw [List.append_nil]; exact htaken, by simp, fun _ => htick,
        (if_neg hi).symm⟩

/-- Settles O49: a pop that finds an entry takes the oldest, and of the other operations only a reception adds one, the
payload its bits decode to. -/
theorem rxqIsAQueue : Obligations.RxqIsAQueue := by
  intro i s t hs hc hcfg h
  have hok := hs.rxqOk hc
  by_cases hi : i = .rxqPop ∧ emptyC s.build s.rxq = false ∧ s.fault.faulted = false
  · obtain ⟨rfl, he, hf⟩ := id hi
    have hcount : countC s.build s.rxq ≠ 0 := fun h0 => by simp [hok.emptyC_iff.2 h0] at he
    rw [exec_rxqPop_take ⟨hc, hf⟩ he] at h
    cases h
    exact ⟨[slotBytes s.rxq s.rxq.r.toNat], [], by rw [List.append_nil]; exact hok.entries_take hcount,
      (if_pos hi).symm, by simp⟩
  · rcases (exec_rings hcfg h).rxq_entries hok hs.ring.rxqShape.entry hi with hkept | ⟨len, bits, p, hev, hd, hadded⟩
    · exact ⟨[], [], by rw [List.append_nil]; exact hkept.symm, (if_neg hi).symm, by simp⟩
    · exact ⟨[], [p.map some], hadded.symm, (if_neg hi).symm, fun _ => ⟨len, bits, p, hev, rfl, hd⟩⟩

/-- Settles O39: each register against the one operation that writes it. -/
theorem ringRoles : Obligations.RingRoles := fun _ _ _ hcfg h => (exec_rings hcfg h).roles

/-- Settles O15: the rings of an accepted `CFG` are the new ones of `ring_create`. -/
theorem cfgCreatesTheRings : Obligations.CfgCreatesTheRings := by
  intro i n plen codec s h
  refine ⟨_, exec_cfg_accepted h, ?_⟩
  simp only [respond_txq, respond_txqReserved, respond_rxq, respond_rxqOwned, respond_rxqOslot, count_txq,
    count_txqReserved, count_rxq, count_rxqOwned, count_rxqOslot, restoreRx_txq, restoreRx_txqReserved, restoreRx_rxq,
    restoreRx_rxqOwned, restoreRx_rxqOslot]
  refine ⟨rfl, rfl, rfl, rfl, rfl, fun q hq => ?_⟩
  obtain ⟨old, rfl⟩ : ∃ old, q = ringCreate s.build plen old := by
    rcases List.mem_pair.1 hq with rfl | rfl <;> exact ⟨_, rfl⟩
  refine ⟨rfl, rfl, rfl, fun hm => ringCreate_slots_sync h.slots hm old, fun hm => ?_⟩
  obtain ⟨hpow, hle, hlt⟩ := ringCreate_slots_gray h.slots hm old
  have hchain : clearedChain s.build = List.replicate s.build.syncStages.toNat 0 := by rw [clearedChain, hm]
  exact ⟨hpow, hle, hlt, hchain, hchain⟩

/-- Settles O47: both rings have the ring laws. -/
theorem ringInvariants : Obligations.RingInvariants := by
  intro s hs hc
  refine ⟨fun q hq => ?_, fun hres => (hs.txqOk hc).next_write_ne_read (hs.ring.reserved hres).2, fun ho => ?_⟩
  · have hok : RingOk s.build q := by
      rcases List.mem_pair.1 hq with rfl | rfl
      · exact hs.txqOk hc
      · exact hs.rxqOk hc
    exact ⟨hok.wBound, hok.rBound, Nat.le_sub_one_of_lt hok.ringCount_lt, hok.counts.1, hok.counts.2,
      fun hm => ⟨hok.fullP_iff_of_sync hm, hok.emptyC_iff_of_sync hm⟩⟩
  · rw [(hs.ring.owned ho).2, cursorDist_cast (hs.rxqOk hc).slots_pos]
    rfl

/-- Settles O59: the code is one-to-one, each bit of its inverse is a running sum, and it turns a run of ones into its
top bit. -/
theorem grayCode : Obligations.GrayCode := by
  refine ⟨fun v => ⟨grayToBin_binToGray v, binToGray_grayToBin v⟩, fun v => ⟨?_, fun k _ => grayToBin_getLsbD v k⟩,
    fun k v hk hk' hv => ?_⟩
  · rw [grayToBin_getLsbD, BitVec.getLsbD_of_ge _ _ (Nat.le_refl 16), Bool.false_xor]
  · obtain ⟨j, hj, hones⟩ := exists_xor_next_eq_ones hk hv
    exact ⟨j, by omega, by rw [binToGray_xor, ← BitVec.ofNat_xor, hones, binToGray_ones (by omega)]⟩

/-- Settles O60: the shifts move each chain on by itself. -/
theorem viewsCatchUp : Obligations.ViewsCatchUp := by
  intro s hb hm htr htw hrr hrw
  have hpos : 0 < s.build.syncStages.toNat := Nat.lt_of_lt_of_le (by decide) (hb.2.2.2 hm)
  refine ⟨fun k hk => ?_, ?_⟩
  · obtain ⟨_, ht, hr⟩ := syncShift_iterate_rings hm k
    obtain ⟨htread, htwrite⟩ := views_before hm htr htw hk
    obtain ⟨hrread, hrwrite⟩ := views_before hm hrr hrw hk
    dsimp only
    rw [ht, hr]
    exact ⟨htread, htwrite, hrread, hrwrite⟩
  · obtain ⟨_, ht, hr⟩ := syncShift_iterate_rings hm s.build.syncStages.toNat
    obtain ⟨htread, htwrite⟩ := views_after hm htr htw hpos
    obtain ⟨hrread, hrwrite⟩ := views_after hm hrr hrw hpos
    obtain ⟨htp, htc⟩ := counts_after hm htr htw hpos
    obtain ⟨hrp, hrc⟩ := counts_after hm hrr hrw hpos
    dsimp only
    rw [ht, hr]
    exact ⟨htread, htwrite, hrread, hrwrite, htp, htc, hrp, hrc⟩

/-- Settles O19: the three branches of `TXQ_RESERVE`. -/
theorem txqReserveTakesASlot : Obligations.TxqReserveTakesASlot := by
  intro s hs hr
  have hfull := fullP_eq_true_iff s.build (hs.txqOk hr.1).wBound
  rw [exec_txqReserve_ready hr]
  refine ⟨fun hres => if_pos hres, fun hres => ⟨fun hnext => ?_, fun hnext => ?_⟩⟩
  · rw [if_neg (by simp [hres]), if_pos (hfull.2 hnext)]; rfl
  · rw [if_neg (by simp [hres]), if_neg (mt hfull.1 hnext)]; rfl

/-- Settles O20: the address lies in the region, because the reserved slot is one of the ring's. -/
theorem txqWrStoresOneByte : Obligations.TxqWrStoresOneByte := by
  intro off data s hs hr
  rw [exec_txqWr_ready hr]
  refine ⟨fun hres => if_pos (by simp [hres]), fun hres => ?_⟩
  rw [if_neg (by simp [hres])]
  refine ⟨fun hoff => if_neg (by simpa [offsetInRange] using hoff), fun hoff => ?_⟩
  have hslot := hs.ring.txqShape.slot_fits hr.1 (hs.cfgLegal hr) (hs.txqOk hr.1).wBound
  have hfit : txqWrAddr off s + [data].length ≤ memSize s.build .txq := by
    simp only [txqWrAddr, List.length_singleton, memSize]
    omega
  rw [if_pos (by simpa [offsetInRange] using hoff), memWrite_eq_next.2 ⟨hfit, rfl⟩]
  exact ⟨_, rfl, rfl, fun a => Memory.read?_write s.txq.mem (txqWrAddr off s) a data⟩

/-- Settles O21: the two branches of `TXQ_COMMIT`. -/
theorem txqCommitPublishes : Obligations.TxqCommitPublishes := by
  intro s hs hr
  refine ⟨fun hres => (exec_txqCommit_ready hr).trans (if_pos (by simp [hres])), fun hres => ?_⟩
  exact ⟨_, exec_txqCommit_reserved hr hres, rfl, nextSlot_toNat s.txq s.txq.w (hs.txqOk hr.1).wBound⟩

/-- Settles O22: the two branches of `TXQ_ABANDON`. -/
theorem txqAbandonEndsTheReservation : Obligations.TxqAbandonEndsTheReservation := by
  refine ⟨Laws.Legal.txqAbandon, fun s hr => ?_⟩
  rw [exec_txqAbandon_ready hr]
  exact ⟨fun hres => if_pos (by simp [hres]), fun hres => if_neg (by simp [hres])⟩

/-- Settles O23: each count is the remainder of its side's cursors, and fits the response. -/
theorem ringCountsAnswered : Obligations.RingCountsAnswered := by
  intro s hs hr
  exact ⟨⟨_, exec_txqCount_ready hr, count_word_facts (hs.txqOk hr.1).slots_pos⟩,
    ⟨_, exec_rxqCount_ready hr, count_word_facts (hs.rxqOk hr.1).slots_pos⟩⟩

/-- Settles O24: the two branches of `RXQ_POP`. -/
theorem rxqPopTakesTheOldest : Obligations.RxqPopTakesTheOldest := by
  intro s hs hr
  refine ⟨fun hempty => ?_, fun hne => ?_⟩
  · exact (exec_rxqPop_ready hr).trans (if_pos (beq_iff_eq.2 hempty))
  · exact ⟨_, exec_rxqPop_take hr (beq_eq_false_iff_ne.2 hne), rfl,
      nextSlot_toNat s.rxq s.rxq.r (hs.rxqOk hr.1).rBound⟩

/-- Settles O25: the owned slot is one of the ring's, and a delivery wrote each of its bytes. -/
theorem rxqRdAnswersTheByte : Obligations.RxqRdAnswersTheByte := by
  intro off s hs hr
  rw [exec_rxqRd_ready hr]
  refine ⟨fun ho => if_pos (by simp [ho]), fun ho => ?_⟩
  rw [if_neg (by simp [ho])]
  refine ⟨fun hoff => if_neg (by simpa [offsetInRange] using hoff), fun hoff => ?_⟩
  have hslot := hs.ring.rxqShape.slot_fits hr.1 (hs.cfgLegal hr) (hs.ownedSlot_lt ho)
  obtain ⟨v, hv⟩ := none_notMem_slotBytes.1 (hs.written.owned ho) off.toNat hoff
  have hread : memRead .rxq (rxqRdAddr off s) 1 s = .next ([v], s) :=
    memRead_written (p := [v]) (by simp only [rxqRdAddr, List.length_singleton, memSize]; omega)
      fun j hj => by rw [Nat.lt_one_iff.1 hj]; exact hv
  rw [if_pos (by simpa [offsetInRange] using hoff), hread]
  exact ⟨v, hv, rfl⟩

end Sys2Proof.Proofs.Rings

/-! The host commands that belong to no single unit (spec 43_host.md R221 to R224): what each of them answers, the
addresses that hold a CSR, and the statements settled from these. -/

namespace Sys2Proof.Machine

open Sys2Proof Sys2Proof.Safety

/-! ## The addresses of the CSRs (10_state.md R40) -/

/-- From 0x25 on no address holds a CSR. -/
theorem csrValue_of_ge {addr : BitVec 8} (h : 0x25 ≤ addr.toNat) (s : State) : csrValue addr s = none := by
  unfold csrValue
  split
  case h_33 => rfl
  all_goals omega

/-- The addresses that hold no CSR: two gaps among the first 0x25, and everything from there on. -/
theorem csrValue_eq_none_iff (addr : BitVec 8) (s : State) :
    csrValue addr s = none ↔ addr.toNat ∈ [0x06, 0x07, 0x15, 0x16, 0x17] ∨ 0x25 ≤ addr.toNat := by
  rcases Nat.lt_or_ge addr.toNat 0x25 with hlt | hge
  · unfold csrValue
    interval_cases addr.toNat <;> simp
  · exact iff_of_true (csrValue_of_ge hge s) (.inr hge)

/-! ## What each command answers -/

/-- `NOP` gives one answer on both sides of the fault gate (43_host.md R221, 60_exceptions.md R242). -/
theorem exec_nop (s : State) : exec .nop s = .next (respond false 0 s) := by
  change command .nop (respond false 0) (fun s => .next (respond false 0 s)) s = _
  cases hf : s.fault.faulted with
  | true => exact command_faulted hf
  | false => exact command_ready hf (by simp [needsConfig])

section
variable {s : State}

/-- A command that is accepted while unconfigured runs its own rule outside the fault state (30_encoding.md R85). -/
theorem exec_of_not_needsConfig {i : Instr} {op : Opcode} {fa : State → State} {body : State → Result State}
    (hexec : ∀ s, exec i s = command op fa body s) (hop : needsConfig op = false) (hf : s.fault.faulted = false) :
    exec i s = body s :=
  (hexec s).trans (command_ready hf fun hn => absurd hn (by simp [hop]))

theorem exec_stageWr_ready (hr : Ready s) (off : BitVec 8) (data : Byte) : exec (.stageWr off data) s =
    if offsetInRange off s.cfg.plen then
      andThen (memWrite .stage off.toNat [data] s) fun s => .next (respond false 0 s)
    else .next (raiseFault .offsetRange (opcodeCode .stageWr) s) :=
  (exec_ready (fun _ => rfl) hr).trans rfl

theorem exec_rdcsr_assigned {addr : BitVec 8} {v : Word} (hf : s.fault.faulted = false)
    (hv : csrValue addr s = some v) : exec (.rdcsr addr) s = .next (respond false v s) := by
  rw [exec_of_not_needsConfig (op := .rdcsr) (fun _ => rfl) rfl hf, hv]

theorem exec_rdcsr_reserved {addr : BitVec 8} (hf : s.fault.faulted = false) (hv : csrValue addr s = none) :
    exec (.rdcsr addr) s = .next (raiseFault .illegalCsr (opcodeCode .rdcsr) s) := by
  rw [exec_of_not_needsConfig (op := .rdcsr) (fun _ => rfl) rfl hf, hv]

theorem exec_clrcnt (hf : s.fault.faulted = false) :
    exec .clrcnt s = .next (respond false 0 (setCnt .zero s)) :=
  (exec_of_not_needsConfig (op := .clrcnt) (fun _ => rfl) rfl hf).trans rfl

end

@[simp] theorem Counters.get_zero (c : Counter) : Counters.zero.get c = 0 := by cases c <;> rfl

end Sys2Proof.Machine

namespace Sys2Proof.Safety

open Sys2Proof Sys2Proof.Machine

/-- An offset within the payload is a byte of the staging buffer (20_memory.md R60, 40_scheduler.md R111). -/
theorem Inv.offset_lt_stage {s : State} (hs : Inv s) (hr : Ready s) {off : BitVec 8}
    (h : off.toNat < s.cfg.plen.toNat) : off.toNat < memSize s.build .stage :=
  Nat.lt_of_lt_of_le h (hs.cfgLegal hr).plenMax

end Sys2Proof.Safety

namespace Sys2Proof.Proofs.HostPort

open Sys2Proof Sys2Proof.Machine Sys2Proof.Safety

/-- Settles O8: the word's fields are all 0, and the answer is the same on both sides of the fault gate. -/
theorem nopAnswersZero : Obligations.NopAnswersZero := ⟨Laws.Legal.nop, exec_nop⟩

/-- Settles O9: an offset within the payload is a byte of the staging buffer, so that the write completes. -/
theorem stageWrStoresOneByte : Obligations.StageWrStoresOneByte := by
  intro off data s hs hr
  rw [exec_stageWr_ready hr]
  refine ⟨fun hoff => ?_, fun hoff => if_neg (by simpa [offsetInRange] using hoff)⟩
  rw [if_pos (by simpa [offsetInRange] using hoff), memWrite_eq_next.2 ⟨hs.offset_lt_stage hr hoff, rfl⟩]
  exact ⟨_, rfl, rfl, fun a => Memory.read?_write s.stage off.toNat a data⟩

/-- Settles O10: the two outcomes of the look-up, and the addresses without a word. -/
theorem rdcsrAnswersTheWord : Obligations.RdcsrAnswersTheWord := by
  intro addr s hf
  exact ⟨csrValue_eq_none_iff addr s, fun _ hv => exec_rdcsr_assigned hf hv, fun hv => exec_rdcsr_reserved hf hv⟩

/-- Settles O12: the counters are replaced by zeros, and no other register but the response is written. -/
theorem clrcntClearsTheCounters : Obligations.ClrcntClearsTheCounters := by
  intro s hf
  exact ⟨_, exec_clrcnt hf, rfl, Counters.get_zero⟩

end Sys2Proof.Proofs.HostPort

/-! The cycle and the fault state (spec 60_exceptions.md): that every cycle completes, the order of the steps within
one, what enters and what leaves the fault state, the `IRQ` pin, and the statements settled from these. -/

namespace Sys2Proof.Machine

open Sys2Proof Sys2Proof.Safety

/-! ## The ways an operation completes without the invariant -/

/-- What the fault state makes of a command: `NOP` and `RDCSR` are still answered (R242). -/
def faultAnswer : Instr → State → State
  | .nop => respond false 0
  | .rdcsr addr => rdcsrFaulted addr
  | _ => refuseFaulted

/-- In front of every command stands the prologue of its opcode, with the fault state's answer to it (R85, R242). -/
theorem exec_eq_command_faultAnswer {i : Instr} {op : Opcode} (hop : opcodeOfInstr i = some op) :
    ∃ body, ∀ s, exec i s = command op (faultAnswer i) body s := by
  cases i with
  | evRxEom | evTxEmpty | evTxReady | evTxError | tick => cases hop
  | _ => cases hop; exact ⟨_, fun _ => rfl⟩

theorem exec_command_faulted {i : Instr} {op : Opcode} (hop : opcodeOfInstr i = some op) {s : State}
    (hf : s.fault.faulted = true) : exec i s = .next (faultAnswer i s) := by
  obtain ⟨body, hexec⟩ := exec_eq_command_faultAnswer hop
  exact (hexec s).trans (command_faulted hf)

/-- An answer of the fault state writes the response alone. -/
theorem faultAnswer_eq (i : Instr) (s : State) : faultAnswer i s = { s with rsp := (faultAnswer i s).rsp } := by
  cases i with
  | rdcsr addr => exact rdcsrFaulted_eq addr s
  | _ => rfl

/-- In the fault state every operation completes, and writes the response at most (R242, 30_encoding.md R88). -/
theorem exec_faulted (i : Instr) {s : State} (hf : s.fault.faulted = true) :
    ∃ r, exec i s = .next { s with rsp := r } := by
  cases hop : opcodeOfInstr i with
  | none => exact ⟨s.rsp, Proofs.Encoding.eventsAndTicksGated i s hop (.inr hf)⟩
  | some op => exact ⟨_, (exec_command_faulted hop hf).trans (congrArg _ (faultAnswer_eq i s))⟩

/-- A command that is accepted while unconfigured completes, in every state that is not faulted. -/
theorem exec_next_of_not_needsConfig {i : Instr} {op : Opcode} (hop : opcodeOfInstr i = some op)
    (hn : needsConfig op = false) {s : State} (hf : s.fault.faulted = false) : ∃ t, exec i s = .next t := by
  cases i with
  | nop => exact ⟨_, exec_nop s⟩
  | cfg ident n plen codec =>
    cases hc : cfgCheck ident n plen codec s with
    | none => exact ⟨_, exec_cfg_accepted ((cfgCheck_eq_none_iff hf).1 hc)⟩
    | some c => exact ⟨_, exec_cfg_rejected hf hc⟩
  | rdcsr addr =>
    cases hv : csrValue addr s with
    | none => exact ⟨_, exec_rdcsr_reserved hf hv⟩
    | some v => exact ⟨_, exec_rdcsr_assigned hf hv⟩
  | clrcnt => exact ⟨_, exec_clrcnt hf⟩
  | _ => cases hop <;> cases hn

end Sys2Proof.Machine

namespace Sys2Proof.Safety

open Sys2Proof Sys2Proof.Machine

namespace Inv

variable {s : State}

/-! ## Every operation completes -/

/-- Idle entry completes: the slot it pulls lies in the region, and the frame in `FRAME_BUF` (40_scheduler.md R109).
It reads neither the scheduler's registers nor the timer. -/
theorem idleEntry_next (hs : Inv s) (hr : Ready s) (c : SchedRegs) (v : TimerRegs) :
    ∃ t, Machine.idleEntry (setSched c (setTimer v s)) = .next t := by
  by_cases hc : countC s.build s.txq = 0
  · exact ⟨_, idleEntry_empty hc⟩
  · have hl := hs.cfgLegal hr
    have hshape := hs.ring.txqShape
    have hfit := hshape.slot_fits hr.1 hl (hs.txqOk hr.1).rBound
    obtain ⟨_, t, _, ht, _⟩ := idleEntry_pull (s := setSched c (setTimer v s)) hs.build hl hshape.entry hfit hc
    exact ⟨t, ht⟩

/-- An expiry's dispatch completes, in each state of the scheduler (40_scheduler.md R105). -/
theorem dispatch_next (hs : Inv s) (hr : Ready s) (v : TimerRegs) :
    ∃ t, Machine.dispatch (setTimer v s) = .next t := by
  cases hst : s.sched.state with
  | idle => exact ⟨_, dispatch_eq_next.2 (.inr (.inr ⟨hst, rfl⟩))⟩
  | waitGuard =>
    rw [dispatch_waitGuard (s := setTimer v s) hst]
    exact hs.idleEntry_next hr _ v
  | sending =>
    rw [dispatch_sending (s := setTimer v s) hst]
    rcases Nat.lt_or_ge s.sched.rep.toNat s.cfg.n.toNat with hlt | hge
    · exact ⟨_, dispatchSending_next (s := setTimer v s) (hs.cfgLegal hr) hlt⟩
    · exact ⟨_, dispatchSending_last (s := setTimer v s) hge⟩

theorem countdown_next (hs : Inv s) (hr : Ready s) : ∃ t, Machine.countdown s = .next t := by
  cases ha : s.timer.armed with
  | false => exact ⟨_, countdown_stopped ha⟩
  | true =>
    by_cases hc : s.timer.count = 1
    · obtain ⟨t, ht⟩ := hs.dispatch_next hr ⟨false, 0⟩
      exact ⟨t, countdown_eq_next.2 (.inr (.inr ⟨ha, hc, ht⟩))⟩
    · exact ⟨_, countdown_eq_next.2 (.inr (.inl ⟨ha, hc, rfl⟩))⟩

/-- A delivery completes: the slot at the write cursor lies in the region (42_ring.md R195). -/
theorem rxqDeliver_next (hs : Inv s) (hr : Ready s) {p : List Byte} (hp : p.length = s.cfg.plen.toNat) (c : Counter) :
    ∃ t, rxqDeliver p (count c s) = .next t := by
  have hshape := hs.ring.rxqShape
  cases hfull : fullP s.build s.rxq with
  | true => exact ⟨_, rxqDeliver_full (s := count c s) hfull⟩
  | false =>
    exact ⟨_, rxqDeliver_room (s := count c s) hfull (by rw [hp, count_rxq, hshape.entry])
      (hshape.slot_fits hr.1 (hs.cfgLegal hr) (hs.rxqOk hr.1).wBound)⟩

theorem receive_next (hs : Inv s) (hr : Ready s) (bits : List Bool) :
    ∃ t, Machine.receive (decodeFrame s.cfg bits) s = .next t := by
  cases hd : decodeFrame s.cfg bits with
  | linecodeFail | checksumFail | eccFail => exact ⟨_, rfl⟩
  | ok p => exact hs.rxqDeliver_next hr (decodeFrame_payload_length (.inl hd)) .rxOk
  | okCorrected p => exact hs.rxqDeliver_next hr (decodeFrame_payload_length (.inr hd)) .rxCorrected

/-- An accepted operation completes, whichever of its clauses applies. -/
theorem exec_next_of_ready (hs : Inv s) (hr : Ready s) (i : Instr) : ∃ t, Machine.exec i s = .next t := by
  cases i with
  | nop | cfg | rdcsr | clrcnt => exact exec_next_of_not_needsConfig rfl rfl hr.2
  | stageWr off data =>
    obtain ⟨hin, hout⟩ := Proofs.HostPort.stageWrStoresOneByte off data s hs hr
    rcases Nat.lt_or_ge off.toNat s.cfg.plen.toNat with hlt | hge
    · exact (hin hlt).imp fun _ h => h.1
    · exact ⟨_, hout hge⟩
  | send =>
    by_cases hidle : s.sched.state = .idle
    · obtain ⟨_, _, _, _, ht⟩ := exec_send_idle hs hr hidle
      exact ⟨_, ht⟩
    · exact ⟨_, Proofs.Scheduler.sendRejected s hr (.inl hidle)⟩
  | txqReserve =>
    rw [exec_txqReserve_ready hr]
    split_ifs <;> exact ⟨_, rfl⟩
  | txqWr off data =>
    obtain ⟨hunreserved, hreserved⟩ := Proofs.Rings.txqWrStoresOneByte off data s hs hr
    cases hres : s.txqReserved with
    | false => exact ⟨_, hunreserved hres⟩
    | true =>
      obtain ⟨hout, hin⟩ := hreserved hres
      rcases Nat.lt_or_ge off.toNat s.txq.e.toNat with hlt | hge
      · exact (hin hlt).imp fun _ h => h.1
      · exact ⟨_, hout hge⟩
  | txqCommit =>
    rw [exec_txqCommit_ready hr]
    split_ifs <;> exact ⟨_, rfl⟩
  | txqAbandon =>
    rw [exec_txqAbandon_ready hr]
    split_ifs <;> exact ⟨_, rfl⟩
  | txqCount => exact ⟨_, exec_txqCount_ready hr⟩
  | rxqPop =>
    rw [exec_rxqPop_ready hr]
    split_ifs <;> exact ⟨_, rfl⟩
  | rxqRd off =>
    obtain ⟨hunowned, howned⟩ := Proofs.Rings.rxqRdAnswersTheByte off s hs hr
    cases ho : s.rxqOwned with
    | false => exact ⟨_, hunowned ho⟩
    | true =>
      obtain ⟨hout, hin⟩ := howned ho
      rcases Nat.lt_or_ge off.toNat s.rxq.e.toNat with hlt | hge
      · obtain ⟨_, _, ht⟩ := hin hlt
        exact ⟨_, ht⟩
      · exact ⟨_, hout hge⟩
  | rxqCount => exact ⟨_, exec_rxqCount_ready hr⟩
  | evRxEom len bits =>
    rw [exec_evRxEom_ready hr]
    exact hs.receive_next hr bits
  | evTxEmpty =>
    obtain ⟨ht, _, _⟩ := Proofs.Scheduler.transceiverEvents s hr
    exact ⟨_, ht⟩
  | evTxReady =>
    obtain ⟨_, ht, _⟩ := Proofs.Scheduler.transceiverEvents s hr
    exact ⟨_, ht⟩
  | evTxError =>
    obtain ⟨_, _, ht⟩ := Proofs.Scheduler.transceiverEvents s hr
    exact ⟨_, ht⟩
  | tick =>
    rw [exec_tick_ready hr]
    exact hs.afterRetry.countdown_next (by simpa [Ready] using hr)

/-- Every operation completes: the fault state answers it, the prologue or the gate stops it, or it is accepted. -/
theorem exec_next (hs : Inv s) (i : Instr) : ∃ t, Machine.exec i s = .next t := by
  cases hf : s.fault.faulted with
  | true =>
    obtain ⟨_, ht⟩ := exec_faulted i hf
    exact ⟨_, ht⟩
  | false =>
    cases hc : s.cfg.configured with
    | true => exact hs.exec_next_of_ready ⟨hc, hf⟩ i
    | false =>
      cases hop : opcodeOfInstr i with
      | none => exact ⟨_, Proofs.Encoding.eventsAndTicksGated i s hop (.inl hc)⟩
      | some op =>
        cases hn : needsConfig op with
        | false => exact exec_next_of_not_needsConfig hop hn hf
        | true =>
          obtain ⟨fa, body, hexec⟩ := exec_eq_command hop
          exact ⟨_, (hexec s).trans (command_eq_next.2 (.inr (.inl ⟨hf, hn, hc, rfl⟩)))⟩

/-! ## Every step of a cycle completes (60_exceptions.md R244) -/

theorem eventStep_next (hs : Inv s) (c : CycleIn) : ∃ t, Machine.eventStep c s = .next t := by
  unfold Machine.eventStep
  split
  · exact ((hs.setAnswers _).setDraws _).exec_next _
  · exact ⟨_, rfl⟩

theorem tickStep_next (hs : Inv s) (c : CycleIn) : ∃ t, Machine.tickStep c s = .next t := by
  unfold Machine.tickStep
  split
  · exact (hs.setAnswers _).exec_next _
  · exact ⟨_, rfl⟩

theorem commandStep_next (hs : Inv s) (c : CycleIn) : ∃ t, Machine.commandStep c s = .next t := by
  unfold Machine.commandStep
  split
  · exact ⟨_, rfl⟩
  · split
    · exact (hs.setAnswers _).exec_next _
    · exact ⟨_, rfl⟩

/-- Each step of a cycle begins in a state with the invariant, because the step before it has kept it. -/
theorem step_next (hs : Inv s) : ∃ t, Machine.step s = .next t := by
  cases hrst : (nextInput s).rst with
  | true => exact ⟨_, step_of_rst hrst⟩
  | false =>
    have hopen : Inv (openCycle s) := hs.of_frame rfl
    obtain ⟨u, hu⟩ := hopen.eventStep_next (nextInput s)
    have hsu := hopen.eventStep hu
    obtain ⟨v, hv⟩ := hsu.tickStep_next (nextInput s)
    obtain ⟨w, hw⟩ := (hsu.tickStep hv).commandStep_next (nextInput s)
    rw [step_of_not_rst hrst, hu, andThen_next, hv, andThen_next, hw, andThen_next]
    exact ⟨_, rfl⟩

end Inv

end Sys2Proof.Safety

/-! The operations of a cycle one after another (spec 60_exceptions.md R244), the cycles of the fault state (R241 to
R243), and the pin (R246). -/

namespace Sys2Proof.Machine

open Sys2Proof Sys2Proof.Safety

/-! ## The operations of a cycle, one after another (R244) -/

/-- What a decoded port adds to the operations of its cycle: one operation, or none where it decodes to none. -/
def opsOf (a : Answers) : Except Reject Instr → List (Answers × Instr)
  | .ok i => [(a, i)]
  | .error _ => []

/-- The ports' operations, in the order of the cycle's steps. -/
theorem presented_eq (c : CycleIn) : presented c =
    opsOf c.evAnswers (decode (.event c.evWord c.rxBits)) ++
      (if c.tick then [(c.tickAnswers, .tick)] else []) ++
      c.cmd.elim [] fun w => opsOf c.cmdAnswers (decode (.command w)) := by
  unfold presented opsOf
  cases c.cmd <;> rfl

theorem andThen_assoc {α β γ : Type} (o : Result α) (f : α → Result β) (g : β → Result γ) :
    andThen (andThen o f) g = andThen o fun a => andThen (f a) g := by
  cases o <;> rfl

theorem runAll_singleton (a : Answers) (i : Instr) (s : State) : runAll [(a, i)] s = exec i (setAnswers a s) := by
  change andThen (exec i (setAnswers a s)) (fun t => .next t) = _
  cases exec i (setAnswers a s) <;> rfl

theorem runAll_append (l l' : List (Answers × Instr)) (s : State) :
    runAll (l ++ l') s = andThen (runAll l s) (runAll l') := by
  induction l generalizing s with
  | nil => rfl
  | cons x l ih => exact (congrArg (andThen _) (funext ih)).trans (andThen_assoc _ _ _).symm

section
variable {c : CycleIn} (hev : (evField c.evWord).toNat = 2 → c.rxBits.length = (lenField c.evWord).toNat)
include hev

/-- A port that gives `EV_RX_EOM` its `LEN` bits leaves no bit to a draw (30_encoding.md R80). -/
theorem eventDraws_eq_zero : eventDraws c = 0 := by
  unfold eventDraws
  split
  · next hrx => rw [hev hrx, Nat.sub_self]
  · rfl

/-- Such a port's input is read as it is given. -/
theorem decode_eventInput (s : State) :
    decode (eventInput c s) = decode (.event c.evWord c.rxBits) :=
  decodeEvent_congr rfl fun hrx => ⟨rfl, by simp [rxOperand, ← hev hrx]⟩

theorem eventStep_eq_runAll :
    eventStep c = runAll (opsOf c.evAnswers (decode (.event c.evWord c.rxBits))) := by
  funext s
  unfold eventStep
  rw [decode_eventInput hev, eventDraws_eq_zero hev]
  cases decode (.event c.evWord c.rxBits) with
  | ok i => exact (runAll_singleton _ i s).symm
  | error r => rfl

end

theorem tickStep_eq_runAll (c : CycleIn) :
    tickStep c = runAll (if c.tick then [(c.tickAnswers, .tick)] else []) := by
  funext s
  unfold tickStep
  split
  · exact (runAll_singleton _ _ s).symm
  · rfl

theorem commandStep_eq_runAll {c : CycleIn} (h : ∀ w, c.cmd = some w → legalCommand w = true) :
    commandStep c = runAll (c.cmd.elim [] fun w => opsOf c.cmdAnswers (decode (.command w))) := by
  funext s
  unfold commandStep
  cases hc : c.cmd with
  | none => rfl
  | some w =>
    obtain ⟨op, hrow⟩ := legalCommand_iff.1 (h w hc)
    simp only [Option.elim, decode_of_row hrow]
    exact (runAll_singleton _ _ s).symm

/-- The operations a cycle presents are its three steps (R244). -/
theorem runAll_presented {c : CycleIn}
    (hev : (evField c.evWord).toNat = 2 → c.rxBits.length = (lenField c.evWord).toNat)
    (hcmd : ∀ w, c.cmd = some w → legalCommand w = true) (s : State) :
    runAll (presented c) s = andThen (eventStep c s) fun u => andThen (tickStep c u) (commandStep c) := by
  rw [presented_eq, List.append_assoc, runAll_append, eventStep_eq_runAll hev, tickStep_eq_runAll,
    commandStep_eq_runAll hcmd]
  exact congrArg _ (funext (runAll_append _ _))

/-! ## A port on its own -/

/-- Nothing on the event port is no event (30_encoding.md R86). -/
theorem decode_no_event (bits : List Bool) : decode (.event 0#32 bits) = .error .noEvent := rfl

theorem evField_no_event : (evField 0).toNat ≠ 2 := by decide

theorem legalCommand_of_decode {w : Word} {i : Instr} (h : decode (.command w) = .ok i) : legalCommand w = true := by
  by_contra hw
  obtain ⟨r, hr⟩ := decode_of_illegal (Bool.not_eq_true _ ▸ hw)
  rw [hr] at h
  cases h

/-- `EV_RX_EOM` decodes only with `LEN` bits (30_encoding.md R80). -/
theorem length_of_decode_event {w : Word} {bits : List Bool} {i : Instr} (h : decode (.event w bits) = .ok i)
    (hrx : (evField w).toNat = 2) : bits.length = (lenField w).toNat := by
  rcases decodeEvent_eq_ok.1 h with ⟨_, hlen, _⟩ | ⟨hc, _⟩ | ⟨hc, _⟩ | ⟨hc, _⟩
  · simpa [rxOperandOk] using hlen
  all_goals omega

/-- A cycle in which one port presents an operation, and nothing else is presented, presents that operation. -/
theorem presents_facts {p : PortInput} {i : Instr} {a : Answers} {s : State} (hdec : decode p = .ok i)
    (hp : Presents p a s) :
    (nextInput s).rst = false ∧
      ((evField (nextInput s).evWord).toNat = 2 →
        (nextInput s).rxBits.length = (lenField (nextInput s).evWord).toNat) ∧
      (∀ w, (nextInput s).cmd = some w → legalCommand w = true) ∧
      presented (nextInput s) = [(a, i)] := by
  rw [hp, presented_eq]
  cases p with
  | command w =>
    refine ⟨rfl, fun h => absurd h evField_no_event, fun v hv => ?_, ?_⟩
    · rw [← Option.some.inj hv]
      exact legalCommand_of_decode hdec
    · simp [cycleOf, quietCycle, decode_no_event, opsOf, hdec]
  | event w bits =>
    refine ⟨rfl, length_of_decode_event hdec, nofun, ?_⟩
    simp [cycleOf, quietCycle, opsOf, hdec]
  | tick =>
    cases hdec
    refine ⟨rfl, fun h => absurd h evField_no_event, nofun, ?_⟩
    simp [cycleOf, quietCycle, decode_no_event, opsOf]

/-! ## What an operation can do to the fault registers (R241) -/

/-- An operation that acts leaves the fault registers alone: only a fault enters the fault state. -/
theorem acts_fault {i : Instr} {s t : State} (h : Acts i s t) : t.fault = s.fault := by
  cases i with
  | nop => cases h; rfl
  | cfg => obtain ⟨_, _, rfl⟩ := h; simp
  | send =>
    obtain ⟨_, ⟨rfl, _⟩ | ⟨_, _, _, u, hu, rfl⟩⟩ := h
    · rfl
    · rw [startSend_frame hu]; rfl
  | txqReserve => obtain ⟨_, _, ⟨_, rfl⟩ | ⟨_, rfl⟩⟩ := h <;> rfl
  | rxqPop => obtain ⟨_, ⟨_, rfl⟩ | ⟨_, rfl⟩⟩ := h <;> rfl
  | txqWr | rxqRd => obtain ⟨_, _, _, _, rfl⟩ := h; rfl
  | stageWr | rdcsr => obtain ⟨_, _, _, rfl⟩ := h; rfl
  | txqCommit | txqAbandon => obtain ⟨_, _, rfl⟩ := h; rfl
  | txqCount | rxqCount | clrcnt | evTxEmpty | evTxReady | evTxError => obtain ⟨_, rfl⟩ := h; rfl
  | evRxEom =>
    obtain ⟨_, hrec⟩ := h
    obtain ⟨_, rfl | ⟨_, _, _, rfl⟩⟩ := receive_cases hrec <;> rfl
  | tick =>
    obtain ⟨_, ht⟩ := h
    rw [countdown_frame ht]
    exact afterRetry_fault s

/-! ## Words of the command port in the fault state (R242) -/

/-- `NOP`'s row holds one word (30_encoding.md R81). -/
theorem nop_row_iff {w : Word} : w &&& opcodeMask .nop = opcodeMatch .nop ↔ w = 0 := by
  have hmask : opcodeMask .nop = BitVec.allOnes 32 := rfl
  have hmatch : opcodeMatch .nop = 0 := rfl
  rw [hmask, hmatch, BitVec.and_allOnes]

theorem rdcsr_row_iff {w : Word} :
    w &&& opcodeMask .rdcsr = opcodeMatch .rdcsr ↔ w &&& 0xFFFFFF00 = 0x60000000 := by
  have hmatch : opcodeMatch .rdcsr = 0x60000000 := rfl
  rw [hmatch]
  rfl

theorem rdcsrFaulted_of_some {addr : BitVec 8} {s : State} {v : Word} (h : csrValue addr s = some v) :
    rdcsrFaulted addr s = respond false v s := by
  simp only [rdcsrFaulted, h]

theorem rdcsrFaulted_of_none {addr : BitVec 8} {s : State} (h : csrValue addr s = none) :
    rdcsrFaulted addr s = respond true 0 s := by
  simp only [rdcsrFaulted, h]

section
variable {c : CycleIn} {w : Word} {s : State}

/-- In the fault state a legal word gets its command's answer. -/
theorem commandStep_faulted_of_row {op : Opcode} (hw : c.cmd = some w) (hf : s.fault.faulted = true)
    (hrow : w &&& opcodeMask op = opcodeMatch op) :
    commandStep c s = .next (faultAnswer (commandOf op w) (setAnswers c.cmdAnswers s)) := by
  simp only [commandStep, hw, decode_of_row hrow]
  exact exec_command_faulted (opcodeOfInstr_commandOf op w) hf

/-- In the fault state an `RDCSR` is answered what its address reads as (R242). -/
theorem commandStep_faulted_rdcsr (hw : c.cmd = some w) (hf : s.fault.faulted = true)
    (hrow : w &&& 0xFFFFFF00 = 0x60000000) :
    commandStep c s = .next (rdcsrFaulted (w.extractLsb' 0 8) (setAnswers c.cmdAnswers s)) :=
  commandStep_faulted_of_row hw hf (rdcsr_row_iff.2 hrow)

/-- In the fault state every word but `NOP`'s and an `RDCSR`'s is refused (R242). -/
theorem commandStep_faulted_refused (hw : c.cmd = some w) (hf : s.fault.faulted = true) (hnop : w ≠ 0)
    (hrdcsr : ¬w &&& 0xFFFFFF00 = 0x60000000) :
    ∃ a, commandStep c s = .next { s with rsp := ⟨true, 0⟩, answers := a } := by
  cases hlegal : legalCommand w with
  | true =>
    obtain ⟨op, hrow⟩ := legalCommand_iff.1 hlegal
    refine ⟨c.cmdAnswers, (commandStep_faulted_of_row hw hf hrow).trans ?_⟩
    cases op with
    | nop => exact absurd (nop_row_iff.1 hrow) hnop
    | rdcsr => exact absurd (rdcsr_row_iff.1 hrow) hrdcsr
    | _ => rfl
  | false =>
    obtain ⟨r, hr⟩ := decode_of_illegal hlegal
    refine ⟨s.answers, ?_⟩
    simp only [commandStep, hw, hr, illegalCommand, hf]
    rfl

end

/-! ## A cycle in the fault state (R243) -/

/-- Nothing but the response has changed, and the model's own record of the answers and the draws. -/
def OnlyAnswered (s t : State) : Prop := t = { s with rsp := t.rsp, answers := t.answers, draws := t.draws }

namespace OnlyAnswered

variable {s t u : State}

theorem refl (s : State) : OnlyAnswered s s := rfl

theorem trans (h : OnlyAnswered s t) (h' : OnlyAnswered t u) : OnlyAnswered s u :=
  Eq.trans h' (by rw [h])

theorem faulted (h : OnlyAnswered s t) (hf : s.fault.faulted = true) : t.fault.faulted = true := by
  rw [h]; exact hf

theorem of_exec {i : Instr} (a : Answers) (k : Nat) (hf : s.fault.faulted = true)
    (h : exec i (setDraws k (setAnswers a s)) = .next t) : OnlyAnswered s t := by
  obtain ⟨r, hr⟩ := exec_faulted i (s := setDraws k (setAnswers a s)) hf
  cases h.symm.trans hr
  rfl

theorem of_eventStep {c : CycleIn} (hf : s.fault.faulted = true) (h : eventStep c s = .next t) :
    OnlyAnswered s t := by
  unfold eventStep at h
  split at h
  · exact of_exec _ _ hf h
  · cases h; exact refl s

theorem of_tickStep {c : CycleIn} (hf : s.fault.faulted = true) (h : tickStep c s = .next t) :
    OnlyAnswered s t := by
  unfold tickStep at h
  split at h
  · exact of_exec c.tickAnswers s.draws hf h
  · cases h; exact refl s

theorem of_commandStep {c : CycleIn} (hf : s.fault.faulted = true) (h : commandStep c s = .next t) :
    OnlyAnswered s t := by
  unfold commandStep at h
  split at h
  · cases h; exact refl s
  · split at h
    · exact of_exec c.cmdAnswers s.draws hf h
    · rw [illegalCommand, if_pos hf] at h
      cases h
      rfl

end OnlyAnswered

/-! ## The end of a cycle (R244 steps 4 and 5, R246) -/

theorem syncShift_sync {s : State} (h : s.build.cdcMode = .sync) : syncShift s = s := by
  unfold syncShift
  rw [h]

theorem irqOf_eq_true_iff (s : State) : irqOf s = true ↔
    s.fault.faulted = true ∨ (s.cfg.configured = true ∧ 0 < countC s.build s.rxq) := by
  simp [irqOf]

/-- The last step of a cycle sets the pin, which the state it is computed from does not read. -/
theorem closeCycle_irq (s : State) : (closeCycle s).irq = irqOf (closeCycle s) := rfl

/-- A cycle that ends in the fault state shifts the chains and sets the pin. -/
theorem closeCycle_faulted {s t : State} (hf : s.fault.faulted = true) (h : t = closeCycle s) : t = { s with
    txq := { s.txq with rsync := t.txq.rsync, wsync := t.txq.wsync }
    rxq := { s.rxq with rsync := t.rxq.rsync, wsync := t.rxq.wsync }
    irq := true } := by
  subst h
  unfold closeCycle syncShift
  cases s.build.cdcMode <;> simp [irqOf, setIrq, setTxq, setRxq, shiftRing, hf]

/-- A cycle without `rst` ends by closing the state its steps have led to. -/
theorem exists_closeCycle {s t : State} (hrst : (nextInput s).rst = false) (h : Machine.step s = .next t) :
    ∃ u v w, eventStep (nextInput s) (openCycle s) = .next u ∧ tickStep (nextInput s) u = .next v ∧
      commandStep (nextInput s) v = .next w ∧ t = closeCycle w := by
  rw [step_of_not_rst hrst] at h
  obtain ⟨u, hu, h⟩ := andThen_eq_next.1 h
  obtain ⟨v, hv, h⟩ := andThen_eq_next.1 h
  obtain ⟨w, hw, h⟩ := andThen_eq_next.1 h
  cases h
  exact ⟨u, v, w, hu, hv, hw, rfl⟩

/-- After every cycle, the reset included, the pin shows `irq()` (R246). -/
theorem step_irq {s t : State} (h : Machine.step s = .next t) : t.irq = irqOf t := by
  cases hrst : (nextInput s).rst with
  | true =>
    rw [step_of_rst hrst] at h
    cases h
    rfl
  | false =>
    obtain ⟨_, _, w, _, _, _, rfl⟩ := exists_closeCycle hrst h
    exact closeCycle_irq w

end Sys2Proof.Machine

namespace Sys2Proof.Proofs.Exceptions

open Sys2Proof Sys2Proof.Machine Sys2Proof.Safety

/-- Settles O45: the steps of a cycle, each of which completes and keeps the invariant for the next. -/
theorem invariantStepsComplete : Obligations.InvariantStepsComplete := fun _ hs => hs.step_next

/-- Settles O6: each step of the cycle is the operation its port presents. -/
theorem cycleRunsInOrder : Obligations.CycleRunsInOrder := by
  intro c s hnext hrst hev hcmd
  rw [step_of_not_rst (hnext ▸ hrst), hnext, runAll_presented hev hcmd]
  simp only [andThen_assoc]
  rfl

/-- Settles O33: of the ways an operation can end only a fault raises `FAULTED`. -/
theorem faultEntryIsPrecise : Obligations.FaultEntryIsPrecise := by
  intro i s t h hs ht
  cases exec_ends h with
  | ignored _ _ he => simp [he, hs] at ht
  | refused _ _ hf _ => simp [hs] at hf
  | faulted op c hop _ he => exact ⟨op, c, hop, he.trans (raiseFault_eq_faultedWith c _ s)⟩
  | acted ha => simp [acts_fault ha, hs] at ht

/-- Settles O34: the words of the table are `NOP`'s, the row of `RDCSR`, and all others. -/
theorem faultStateAnswers : Obligations.FaultStateAnswers := by
  intro c w s hf hw
  rcases eq_or_ne w 0 with rfl | hnop
  · have ht := commandStep_faulted_of_row hw hf (nop_row_iff.2 rfl)
    exact ⟨_, ht, rfl, fun _ => rfl, fun v hrdcsr => absurd hrdcsr (by decide), fun h => absurd rfl h⟩
  by_cases hrdcsr : w &&& 0xFFFFFF00 = 0x60000000
  · have ht := commandStep_faulted_rdcsr hw hf hrdcsr
    cases hv : csrValue (w.extractLsb' 0 8) s with
    | some v =>
      rw [rdcsrFaulted_of_some (s := setAnswers c.cmdAnswers s) hv] at ht
      exact ⟨_, ht, rfl, fun h => absurd h hnop, fun v' _ hv' => by rw [← Option.some.inj hv']; rfl,
        fun _ h => absurd ⟨hrdcsr, rfl⟩ h⟩
    | none =>
      rw [rdcsrFaulted_of_none (s := setAnswers c.cmdAnswers s) hv] at ht
      exact ⟨_, ht, rfl, fun h => absurd h hnop, nofun, fun _ _ => rfl⟩
  · obtain ⟨a, ht⟩ := commandStep_faulted_refused hw hf hnop hrdcsr
    exact ⟨_, ht, rfl, fun h => absurd h hnop, fun _ h => absurd h hrdcsr, fun _ _ => rfl⟩

/-- Settles O35: the steps of a cycle answer at most; its end shifts the chains and sets the pin. -/
theorem faultIsSticky : Obligations.FaultIsSticky := by
  intro s t h hf
  refine ⟨fun hrst => ?_, fun hrst => ?_⟩
  · obtain ⟨u, v, w, hu, hv, hw, ht⟩ := exists_closeCycle hrst h
    have hsu : OnlyAnswered (openCycle s) u := .of_eventStep hf hu
    have hsv := hsu.trans (.of_tickStep (hsu.faulted hf) hv)
    have hsw := hsv.trans (.of_commandStep (hsv.faulted hf) hw)
    refine ⟨?_, fun hmode => ?_⟩
    · have hclose := closeCycle_faulted (hsw.faulted hf) ht
      exact hclose.trans (by rw [hclose, hsw]; rfl)
    · have hkept : syncShift w = w := syncShift_sync (by rw [hsw]; exact hmode)
      rw [ht, closeCycle, hkept, hsw]
      exact ⟨rfl, rfl⟩
  · rw [step_of_rst hrst] at h
    cases h
    rfl

/-- Settles O5: the operations of the cycle are the one presented. -/
theorem stepRunsPresentedOperation : Obligations.StepRunsPresentedOperation := by
  intro p i a s hdec hp
  obtain ⟨hrst, hev, hcmd, hops⟩ := presents_facts hdec hp
  rw [cycleRunsInOrder _ s rfl hrst hev hcmd, hops, runAll_singleton]
  rfl

/-- Settles O42: the pin is `irq()` of the state the cycle ends in. -/
theorem irqPinFollowsTheState : Obligations.IrqPinFollowsTheState := by
  intro s t h
  rw [step_irq h]
  exact irqOf_eq_true_iff t

end Sys2Proof.Proofs.Exceptions
